-- ==== Sys2Proof/Word.lean ====
section
/-! DEFINITION. Words of the Kazwick side (02 R50, R52) and the numbered parts of the module (00 R6). -/

namespace Sys2Proof

/-- The octet of a syllable, or an octet-side octet. -/
abbrev Octet := BitVec 8
/-- A syllable: mark in Kazwick bit 0 (the most significant), octet in bits 1-8 (R9, R50). -/
abbrev Syl := BitVec 9
/-- A half-word, 2 syllables. -/
abbrev Half := BitVec 18
/-- A word, 4 syllables. -/
abbrev Word := BitVec 36
/-- A double-word, 8 syllables; word 0 is the more significant (R52). -/
abbrev DWord := BitVec 72

/-- A register field G0-G31 (or a float register field, of which 16-31 are reserved, R125). -/
abbrev Reg := Fin 32
/-- Logical cores K0-K95. -/
abbrev CoreId := Fin 96
/-- Clusters C0-C11. -/
abbrev Cluster := Fin 12
/-- Quadrants Q0-Q3. -/
abbrev Quad := Fin 4
/-- Partitions P0-P1023. -/
abbrev PartId := Fin 1024
/-- Memory stacks M0-M7. -/
abbrev StackId := Fin 8
/-- CQ links L0-L23. -/
abbrev Link := Fin 24
/-- Physical slots of a cluster, 0 to 8 (R18). -/
abbrev SlotId := Fin 9
/-- Channels of one DMA engine, 0 to 63 (R472). -/
abbrev Chan := Fin 64
/-- SCB slots, 0 to 63 (R524). -/
abbrev Slot64 := Fin 64
/-- Shelf locks, 0 to 4,095. -/
abbrev LockId := Fin 4096

/-- Sparse data by number: (key, value) pairs, keys strictly rising. -/
abbrev Tbl (α : Type) := List (Nat × α)

end Sys2Proof
end

