-- ==== Sys2Proof/Syntax.lean ====
section
/-! DEFINITION. The commands: one constructor per row of spec/opcode_table.json. The table gives no bits, so an
instruction command names its operand form and its fields; an event command names what the event's rule names. -/

namespace Sys2Proof

/-- One fetch of the microcode sequencer: the bits that the read inverts, and whether the condition that the word tests, or
waits for, is true (R317, R320, R324). -/
structure MicroTick where
  err  : BitVec 144
  cond : Bool
  deriving DecidableEq, Repr

/-- A hardware failure that the environment lets fall into one step (the steps of 95_what_each_step_holds that
need a cause from outside: R164, R319, R324, R348, R424, R447). `micro` gives the microwords that the sequencer fetches for
the running routine, one by one; `cacheUnc` and `l3Unc` an uncorrectable error in the core's L1-D or L2, or in its cluster's L3, at an address. -/
inductive HwEv where
  | none
  | micro (ticks : List MicroTick)
  | cacheUnc (line : Nat)
  | l3Unc (line : Nat)
  | l1iParity
  | bankUnc
  | dividerParity
  deriving DecidableEq, Repr

/-- How an instruction is issued: on which logical core, from which of its safe points on a pending interrupt is
seen by it (1 is the first; R220, R202), and which hardware failure meets it (DESIGN CHOICE, log 4). -/
structure Issue where
  core  : CoreId
  irqAt : Nat
  hw    : HwEv
  deriving DecidableEq, Repr

/-- The forms of the arithmetic that exists short and long (R119, R120, R154). -/
inductive AluForm where
  | short (rd rs : Reg)
  | iop (rd ra rb : Reg)
  | iopd (rd ra rb : Reg)
  deriving DecidableEq, Repr

/-- The age of a posting, compared in this order (R265). -/
structure Age where
  stamp : Nat
  ident : Nat
  quad  : Nat
  slot  : Nat
  deriving DecidableEq, Repr

/-- One leg as a posting or a PREP message carries it (R254): `amt` is its 16 syllables. -/
structure Leg where
  idx   : Nat
  rmt   : Bool
  cix   : Nat
  ident : Nat
  lpart : Nat
  resv  : Bool
  addr  : Nat
  amt   : List Syl
  deriving DecidableEq, Repr

/-- The content of a PREP message (R278). -/
structure PrepMsg where
  age   : Age
  pid   : DWord
  cpart : Nat
  fmt   : Nat
  tmo   : Nat
  curs  : List Nat
  legs  : List Leg
  deriving DecidableEq, Repr

/-- What the responder drives on RSP, and PARERR for a copy of a broadcast that this module receives with a parity error
(17 R531, R532). -/
inductive Rsp where
  | ack | queued | refused | stale | busy | parerr | none
  deriving DecidableEq, Repr

/-- The bus around a command: SCB cycles since the command before it, the slots that contend with its launcher, its answer, and the
slot that launches one whose operands do not name it (17 R525-R532). -/
structure BusCyc where
  idle   : Nat
  rivals : List (Fin 64)
  rsp    : Rsp
  master : Fin 64 := 0
  deriving DecidableEq, Repr

/-- The fields of a received message's packets that its effect depends on (R553). -/
structure PktHdr where
  link   : Link
  src    : BitVec 18
  sepoch : BitVec 16
  depoch : BitVec 16
  part   : Nat
  status : Nat
  tag    : BitVec 16
  poison : Bool := false
  deriving DecidableEq, Repr

/-- The packet header and control double-word of R553 with the body. -/
structure Packet where
  link   : Link
  vc     : Nat
  typ    : Nat
  dest   : BitVec 18
  src    : BitVec 18
  sepoch : BitVec 16
  depoch : BitVec 16
  part   : Nat
  status : Nat
  tag    : BitVec 16
  seg    : Nat
  last   : Bool
  poison : Bool
  body   : List Syl
  deriving DecidableEq, Repr

/-- A received frame (R547): the packet's syllables, the trailer, and whether the frame touches a codeword the FEC
marks uncorrectable. -/
structure Frame where
  fseq   : BitVec 18
  packet : List Syl
  credVc : Nat
  credit : Nat
  crc    : BitVec 32
  fecBad : Bool
  deriving DecidableEq, Repr

/-- Sources of a Campion event (R376, R378). -/
inductive EvSrc where
  | ready | notice | timer | doorbell | dma | posting | lock | scb
  deriving DecidableEq, Repr

/-- Agents that send requests to a home agent, in the order of R430. -/
inductive Agent where
  | cluster (c : Cluster)
  | bu (q : Quad)
  | dma (q : Quad)
  | journal
  | campion (c : Cluster)
  | remote (l : Link)
  | tansy
  deriving DecidableEq, Repr

/-- Stored bits that have changed since the command before: the code word (its address over 32) and which of its 320 bits, bit 0
of R436 first (R437). -/
abbrev Ecc := List (Nat × BitVec 320)

/-- The bus errors of R499. -/
inductive BusErr where
  | poison | status | timeout | buffer
  deriving DecidableEq, Repr

/-- Who makes a lifecycle request (R459); `rsv` says that a reserved field of HI_CMD was not zero. -/
inductive Origin where
  | pf (rsv : Bool)
  | custody
  deriving DecidableEq, Repr

/-- The causes of a host port reset (R601, R626). -/
inductive HpReset where
  | hot | linkDown | perst (low : Bool) | flr
  deriving DecidableEq, Repr

/-- What the flash declares (R579, R580). -/
structure Sfdp where
  answers : Bool
  needed  : Bool
  octal   : Bool
  quad    : Bool
  deriving DecidableEq, Repr

/-- A routing-table entry (R555). -/
structure Route where
  v    : Bool
  prim : Nat
  av   : Bool
  alt  : Nat
  deriving DecidableEq, Repr

/-- A peer-table entry (R559, R562): `slot` is the SCB slot of a peer on the module's own shelf. -/
structure Peer where
  ident     : Nat
  companion : Bool
  slot      : Option Nat
  deriving DecidableEq, Repr

/-- A pair-table entry: the active or the standby side of a paired partition, its peer, the checkpoint regions
(address, syllables) and the two buffers (Paired Standby, R566). -/
structure Pair where
  part    : Nat
  standby : Bool
  peer    : Nat
  regions : List (Nat × Nat)
  bufA    : Nat
  bufB    : Nat
  deriving DecidableEq, Repr

/-- A remote coprocessor slot (R149, R564): companion identity, link and time-out. -/
structure RemoteSlot where
  ident : Nat
  link  : Nat
  toUs  : Nat
  deriving DecidableEq, Repr

/-- The contents of the image's unencrypted sections (R584), as Tansy finds them in the chosen copy. The spec gives
no layout for sections 1, 2, 4, 6, 11 to 13 and 15, whose contents these fields name; the tables of sections 5 and 7 to 10
are the raw words, which TABLE_LOAD reads from the flash. `curve` is CK_CORE's nominal clock in MHz (R4). -/
structure ImageTables where
  modid     : BitVec 18 := 0
  shelf     : BitVec 12 := 0
  mySlot    : Slot64 := 0
  mSlot     : Slot64 := 0
  sSlot     : Slot64 := 1
  lsize     : Nat := 6
  quantumUs : Nat := 50
  shieldO   : Nat := 4096
  shieldC   : Nat := 4096
  rsz       : Nat := 0
  ksb       : Nat := 0
  custody   : List (Nat × Nat) := []
  tables    : List Nat := []
  jrings    : List Nat := []
  ptable    : Nat := 0
  ports     : List Nat := []
  dmaPorts  : List Nat := []
  templates : List (List DWord) := []
  hwmC      : List Bool := []
  entry     : Word := 0
  xbaseC    : Word := 0
  plvl      : BitVec 12 := 0
  lowMark   : Nat := 0
  remotes   : List (Option RemoteSlot) := []
  lapThr    : Nat := 0
  lifeThr   : Nat := 0
  curve     : Nat := 4200
  ageSteps  : List Nat := []
  links     : BitVec 24 := 0
  parts     : List (Nat × List Word) := []
  owners    : List (Nat × Nat) := []
  formats   : List (Nat × DWord) := []
  rules     : List (Nat × Word × Word) := []
  pages     : List (Nat × Word × List Half) := []
  patterns  : List (Nat × DWord × List DWord) := []
  groups    : List (Nat × Route) := []
  members   : List (Nat × Route) := []
  peers     : List Peer := []
  shelfPeers : List Nat := []
  pairs     : List Pair := []
  deriving DecidableEq, Repr

/-- What starts a module reset: RST_L falls, or Tansy fetches this encoding, which it may not execute (R575, R601). -/
inductive ResetBy where
  | rstL | tansy (w : Word)
  deriving DecidableEq, Repr

/-- The commands of the block, in the order of the table. -/
inductive Instr where
  -- Integer moves and arithmetic (04 R119-R120, 05 R154-R156)
  | mov (a : Issue) (rd : Reg) (rs : Reg)
  | add (a : Issue) (f : AluForm)
  | sub (a : Issue) (f : AluForm)
  | and (a : Issue) (f : AluForm)
  | or (a : Issue) (f : AluForm)
  | xor (a : Issue) (f : AluForm)
  | andn (a : Issue) (dbl : Bool) (rd : Reg) (ra : Reg) (rb : Reg)
  | shl (a : Issue) (f : AluForm)
  | shr (a : Issue) (f : AluForm)
  | sar (a : Issue) (f : AluForm)
  | rol (a : Issue) (dbl : Bool) (rd : Reg) (ra : Reg) (rb : Reg)
  | shli (a : Issue) (dbl : Bool) (rd : Reg) (ra : Reg) (n : BitVec 7)
  | shri (a : Issue) (dbl : Bool) (rd : Reg) (ra : Reg) (n : BitVec 7)
  | sari (a : Issue) (dbl : Bool) (rd : Reg) (ra : Reg) (n : BitVec 7)
  | neg (a : Issue) (rd : Reg) (rs : Reg)
  | not (a : Issue) (rd : Reg) (rs : Reg)
  | clrmk (a : Issue) (rd : Reg) (rs : Reg)
  | slt (a : Issue) (f : AluForm)
  | sltu (a : Issue) (f : AluForm)
  | addv (a : Issue) (dbl : Bool) (rd : Reg) (ra : Reg) (rb : Reg)
  | subv (a : Issue) (dbl : Bool) (rd : Reg) (ra : Reg) (rb : Reg)
  | negv (a : Issue) (dbl : Bool) (rd : Reg) (ra : Reg)
  | min (a : Issue) (dbl : Bool) (rd : Reg) (ra : Reg) (rb : Reg)
  | max (a : Issue) (dbl : Bool) (rd : Reg) (ra : Reg) (rb : Reg)
  | minu (a : Issue) (dbl : Bool) (rd : Reg) (ra : Reg) (rb : Reg)
  | maxu (a : Issue) (dbl : Bool) (rd : Reg) (ra : Reg) (rb : Reg)
  | clz (a : Issue) (rd : Reg) (ra : Reg)
  | movd (a : Issue) (rd : Reg) (rs : Reg)
  | daddr (a : Issue) (rd : Reg) (rs : Reg)
  | dsubr (a : Issue) (rd : Reg) (rs : Reg)
  | addis (a : Issue) (rd : Reg) (imm : BitVec 9)
  | lis (a : Issue) (rd : Reg) (imm : BitVec 9)
  | addi (a : Issue) (rd : Reg) (ra : Reg) (imm : BitVec 18)
  | andi (a : Issue) (rd : Reg) (ra : Reg) (imm : BitVec 18)
  | ori (a : Issue) (rd : Reg) (ra : Reg) (imm : BitVec 18)
  | xori (a : Issue) (rd : Reg) (ra : Reg) (imm : BitVec 18)
  | lih (a : Issue) (rd : Reg) (imm : BitVec 18)
  | slti (a : Issue) (rd : Reg) (ra : Reg) (imm : BitVec 18)
  | sltiu (a : Issue) (rd : Reg) (ra : Reg) (imm : BitVec 18)
  -- Loads and stores (04 R119, R128, R132)
  | lws (a : Issue) (rd : Reg) (rb : Reg) (disp : BitVec 4)
  | sws (a : Issue) (rd : Reg) (rb : Reg) (disp : BitVec 4)
  | lh (a : Issue) (rd : Reg) (rb : Reg) (disp : BitVec 18)
  | lw (a : Issue) (rd : Reg) (rb : Reg) (disp : BitVec 18)
  | ldw (a : Issue) (rd : Reg) (rb : Reg) (disp : BitVec 18)
  | lsy (a : Issue) (rd : Reg) (rb : Reg) (disp : BitVec 18)
  | loc (a : Issue) (rd : Reg) (rb : Reg) (disp : BitVec 18)
  | lwn (a : Issue) (rd : Reg) (rb : Reg) (disp : BitVec 18)
  | sh (a : Issue) (rd : Reg) (rb : Reg) (disp : BitVec 18)
  | sw (a : Issue) (rd : Reg) (rb : Reg) (disp : BitVec 18)
  | sdw (a : Issue) (rd : Reg) (rb : Reg) (disp : BitVec 18)
  | ssy (a : Issue) (rd : Reg) (rb : Reg) (disp : BitVec 18)
  -- Control flow (04 R119, R133-R146)
  | beqz (a : Issue) (ra : Reg) (off : BitVec 9)
  | bnez (a : Issue) (ra : Reg) (off : BitVec 9)
  | bltz (a : Issue) (ra : Reg) (off : BitVec 9)
  | bgez (a : Issue) (ra : Reg) (off : BitVec 9)
  | brs (a : Issue) (off : BitVec 14)
  | beq (a : Issue) (ra : Reg) (rb : Reg) (off : BitVec 18)
  | bne (a : Issue) (ra : Reg) (rb : Reg) (off : BitVec 18)
  | blt (a : Issue) (ra : Reg) (rb : Reg) (off : BitVec 18)
  | bge (a : Issue) (ra : Reg) (rb : Reg) (off : BitVec 18)
  | bltu (a : Issue) (ra : Reg) (rb : Reg) (off : BitVec 18)
  | bgeu (a : Issue) (ra : Reg) (rb : Reg) (off : BitVec 18)
  | beqi (a : Issue) (ra : Reg) (imm : BitVec 5) (off : BitVec 18)
  | bnei (a : Issue) (ra : Reg) (imm : BitVec 5) (off : BitVec 18)
  | blti (a : Issue) (ra : Reg) (imm : BitVec 5) (off : BitVec 18)
  | bgei (a : Issue) (ra : Reg) (imm : BitVec 5) (off : BitVec 18)
  | br (a : Issue) (off : BitVec 28)
  | call (a : Issue) (off : BitVec 28)
  | jr (a : Issue) (ra : Reg)
  | callr (a : Issue) (ra : Reg)
  | ret (a : Issue)
  | loop (a : Issue) (c : Reg) (e : BitVec 6)
  -- Control registers and system (03, 04 R129-R130, 10, 11, 12)
  | getc (a : Issue) (r : Reg) (num : BitVec 9)
  | putc (a : Issue) (r : Reg) (num : BitVec 9)
  | getc2 (a : Issue) (r : Reg) (num : BitVec 9)
  | putc2 (a : Issue) (r : Reg) (num : BitVec 9)
  | svc (a : Issue) (imm : BitVec 12)
  | xret (a : Issue)
  | shield (a : Issue) (imm : BitVec 12)
  | rsflush (a : Issue)
  | fence (a : Issue) (lf : Bool)
  | wait (a : Issue) (lf : Bool)
  | iva (a : Issue) (ra : Reg)
  | ivp (a : Issue) (ra : Reg)
  | ivall (a : Issue)
  | ivsync (a : Issue)
  | skset (a : Issue) (ra : Reg) (rb : Reg)
  | skget (a : Issue) (ra : Reg) (rb : Reg)
  -- Multiply, divide and MAC2 (05 R157-R165, R176-R179)
  | mul (a : Issue) (rd : Reg) (ra : Reg) (rb : Reg)
  | mulh (a : Issue) (rd : Reg) (ra : Reg) (rb : Reg)
  | mulhu (a : Issue) (rd : Reg) (ra : Reg) (rb : Reg)
  | mulw (a : Issue) (rd : Reg) (ra : Reg) (rb : Reg)
  | mulwu (a : Issue) (rd : Reg) (ra : Reg) (rb : Reg)
  | muld (a : Issue) (rd : Reg) (ra : Reg) (rb : Reg)
  | div (a : Issue) (rd : Reg) (ra : Reg) (rb : Reg)
  | divu (a : Issue) (rd : Reg) (ra : Reg) (rb : Reg)
  | rem (a : Issue) (rd : Reg) (ra : Reg) (rb : Reg)
  | remu (a : Issue) (rd : Reg) (ra : Reg) (rb : Reg)
  | divrem (a : Issue) (rd : Reg) (ra : Reg) (rb : Reg)
  | divremu (a : Issue) (rd : Reg) (ra : Reg) (rb : Reg)
  | divd (a : Issue) (rd : Reg) (ra : Reg) (rb : Reg)
  | divdu (a : Issue) (rd : Reg) (ra : Reg) (rb : Reg)
  | remd (a : Issue) (rd : Reg) (ra : Reg) (rb : Reg)
  | remdu (a : Issue) (rd : Reg) (ra : Reg) (rb : Reg)
  | dividerReload (k : CoreId) (pass : Bool)
  | mac2 (a : Issue) (ra : Reg) (rb : Reg) (uns : Bool) (clr : Bool) (inc : Bool)
  -- Floating point (05 R166-R175, 02 R71-R72)
  | fld (a : Issue) (rd : Reg) (rb : Reg) (disp : BitVec 18)
  | fst (a : Issue) (rd : Reg) (rb : Reg) (disp : BitVec 18)
  | fadd (a : Issue) (lg : Bool) (rd : Reg) (ra : Reg) (rb : Reg)
  | fsub (a : Issue) (lg : Bool) (rd : Reg) (ra : Reg) (rb : Reg)
  | fmul (a : Issue) (lg : Bool) (rd : Reg) (ra : Reg) (rb : Reg)
  | fdiv (a : Issue) (lg : Bool) (rd : Reg) (ra : Reg) (rb : Reg)
  | fsqrt (a : Issue) (lg : Bool) (rd : Reg) (ra : Reg)
  | fmin (a : Issue) (lg : Bool) (rd : Reg) (ra : Reg) (rb : Reg)
  | fmax (a : Issue) (lg : Bool) (rd : Reg) (ra : Reg) (rb : Reg)
  | fabs (a : Issue) (lg : Bool) (rd : Reg) (ra : Reg)
  | fneg (a : Issue) (lg : Bool) (rd : Reg) (ra : Reg)
  | fmov (a : Issue) (lg : Bool) (rd : Reg) (ra : Reg)
  | fcmp (a : Issue) (lg : Bool) (rd : Reg) (ra : Reg) (rb : Reg)
  | fcmps (a : Issue) (lg : Bool) (rd : Reg) (ra : Reg) (rb : Reg)
  | frint (a : Issue) (lg : Bool) (rd : Reg) (ra : Reg)
  | fcvtsl (a : Issue) (rd : Reg) (ra : Reg)
  | fcvtls (a : Issue) (rd : Reg) (ra : Reg)
  | fcvtws (a : Issue) (rd : Reg) (ra : Reg)
  | fcvtwl (a : Issue) (rd : Reg) (ra : Reg)
  | fcvtdl (a : Issue) (rd : Reg) (ra : Reg)
  | fcvtsw (a : Issue) (rd : Reg) (ra : Reg)
  | fcvtswz (a : Issue) (rd : Reg) (ra : Reg)
  | fcvtlw (a : Issue) (rd : Reg) (ra : Reg)
  | fcvtlwz (a : Issue) (rd : Reg) (ra : Reg)
  | fcvtld (a : Issue) (rd : Reg) (ra : Reg)
  | fcvtldz (a : Issue) (rd : Reg) (ra : Reg)
  | f64tol (a : Issue) (rd : Reg) (ra : Reg)
  | ltof64 (a : Issue) (rd : Reg) (ra : Reg)
  | mvgs (a : Issue) (rd : Reg) (ra : Reg)
  | mvsg (a : Issue) (rd : Reg) (ra : Reg)
  | mvgl (a : Issue) (rd : Reg) (ra : Reg)
  | mvlg (a : Issue) (rd : Reg) (ra : Reg)
  -- Packed decimal (06 R184-R209)
  | dadd (a : Issue) (ra : Reg) (rb : Reg) (la : BitVec 6) (lb : BitVec 6)
  | dsub (a : Issue) (ra : Reg) (rb : Reg) (la : BitVec 6) (lb : BitVec 6)
  | dzap (a : Issue) (ra : Reg) (rb : Reg) (la : BitVec 6) (lb : BitVec 6)
  | dcmp (a : Issue) (ra : Reg) (rb : Reg) (la : BitVec 6) (lb : BitVec 6)
  | dmul (a : Issue) (ra : Reg) (rb : Reg) (la : BitVec 6) (lb : BitVec 6)
  | dmulr (a : Issue) (ra : Reg) (rb : Reg) (la : BitVec 6) (lb : BitVec 6)
  | ddiv (a : Issue) (ra : Reg) (rb : Reg) (la : BitVec 6) (lb : BitVec 6)
  | ddivr (a : Issue) (ra : Reg) (rb : Reg) (la : BitVec 6) (lb : BitVec 6)
  | drem (a : Issue) (ra : Reg) (rb : Reg) (la : BitVec 6) (lb : BitVec 6)
  | dtst (a : Issue) (ra : Reg) (la : BitVec 6)
  | pack (a : Issue) (ra : Reg) (rb : Reg) (la : BitVec 6) (lb : BitVec 6)
  | unpk (a : Issue) (ra : Reg) (rb : Reg) (la : BitVec 6) (lb : BitVec 6)
  | unpku (a : Issue) (ra : Reg) (rb : Reg) (la : BitVec 6) (lb : BitVec 6)
  | dsr (a : Issue) (ra : Reg) (rb : Reg) (la : BitVec 6)
  | cvpb (a : Issue) (ra : Reg) (rb : Reg) (la : BitVec 6)
  | cvbp (a : Issue) (ra : Reg) (rb : Reg) (la : BitVec 6)
  | dlda (a : Issue) (ra : Reg) (la : BitVec 6)
  | dsta (a : Issue) (ra : Reg) (la : BitVec 6)
  | dclra (a : Issue)
  | dmac (a : Issue) (ra : Reg) (rb : Reg) (la : BitVec 6) (lb : BitVec 6) (neg : Bool) (inc : Bool)
  -- String instructions (07 R211-R247)
  | mvs (a : Issue) (lf : Bool)
  | mvf (a : Issue) (lf : Bool)
  | trs (a : Issue) (lf : Bool)
  | scn (a : Issue) (lf : Bool)
  | cnv (a : Issue) (p : BitVec 4) (d : Bool)
  | edit (a : Issue) (p : BitVec 4)
  -- Coprocessor slots, save areas (07 R239, 10 R354, 04 R149, 11 R384)
  | cpq (a : Issue) (rd : Reg) (rb : Reg)
  | cptou (a : Issue) (rd : Reg) (ra : Reg) (rb : Reg)
  | cpfromu (a : Issue) (rd : Reg) (ra : Reg) (rb : Reg)
  | shinit (a : Issue) (rd : Reg) (ra : Reg) (rb : Reg)
  | shstep (a : Issue) (rd : Reg) (ra : Reg) (rb : Reg)
  | shfin (a : Issue) (rd : Reg) (ra : Reg) (rb : Reg)
  | ginit (a : Issue) (rd : Reg) (ra : Reg) (rb : Reg)
  | gaad (a : Issue) (rd : Reg) (ra : Reg) (rb : Reg)
  | genc (a : Issue) (rd : Reg) (ra : Reg) (rb : Reg)
  | gdec (a : Issue) (rd : Reg) (ra : Reg) (rb : Reg)
  | gfin (a : Issue) (rd : Reg) (ra : Reg) (rb : Reg)
  | cpRemote (a : Issue) (sl : Fin 4) (rd : Reg) (ra : Reg) (rb : Reg) (cfn : BitVec 13)
  | cpans (h : PktHdr) (value : Option Word)
  | remoteTimeout (k : CoreId)
  | saveu (a : Issue)
  | savel (a : Issue)
  -- Postings: instructions (08 R248)
  | post (a : Issue) (ra : Reg)
  | prep (a : Issue) (ra : Reg)
  | commit (a : Issue) (ra : Reg)
  | abort (a : Issue) (ra : Reg)
  | pstat (a : Issue) (rd : Reg) (ra : Reg)
  | getseq (a : Issue) (rd : Reg)
  | getjh (a : Issue) (rd : Reg)
  | slacq (a : Issue) (rd : Reg) (ra : Reg)
  | slrel (a : Issue) (rd : Reg) (ra : Reg)
  -- Postings: events (08 R259-R285): a `line` is its address divided by 64
  | lockRelease (q : Quad) (line : Nat)
  | wound (q : Quad) (slot : Nat)
  | journalSpace (q : Quad)
  | commitPoint (q : Quad) (slot : Nat)
  | journalWrite (q : Quad)
  | flushComplete (q : Quad) (dev : Bool)
  | prepPacket (h : PktHdr) (m : PrepMsg)
  | pans (h : PktHdr) (pid : DWord) (leg : Nat)
  | commitPacket (h : PktHdr) (pid : DWord) (sq : DWord)
  | abortPacket (h : PktHdr) (pid : DWord)
  | resolve (h : PktHdr) (pid : DWord)
  | resolved (h : PktHdr) (pid : DWord) (ok : Bool) (sq : DWord)
  | prepTimeout (q : Quad) (slot : Nat)
  | resolveTimer (q : Quad) (slot : Nat)
  -- Store queue, invalidation and coherence (09 R299, 12 R410-R413, 13 R427-R443): a `line` is its address divided by 64
  | storeCommit (k : CoreId)
  | lockedLineRetry (k : CoreId)
  | invalidation (k : CoreId)
  | invalidationAck (src : CoreId) (k : CoreId)
  | readRequest (g : Agent) (line : Nat) (e : Ecc)
  | ownershipRequest (g : Agent) (line : Nat) (e : Ecc)
  | forward (line : Nat) (inFlight : Bool)
  | writeback (g : Agent) (line : Nat)
  | uncachedRead (g : Agent) (addr : Nat) (len : Nat) (e : Ecc)
  | uncachedWrite (g : Agent) (addr : Nat) (data : List Syl)
  | partialWrite (g : Agent) (addr : Nat) (data : List Syl)
  -- Interrupts, shadow, shield, heartbeats (10, 03 R98, 01 R41-R49)
  | interruptEntry (a : Issue)
  | shadowClose (k : CoreId)
  | shieldEnd (k : CoreId)
  | heartbeat (c : Cluster) (sl : SlotId)
  | heartbeatTick
  | selfTestEnd (c : Cluster) (sl : SlotId) (pass : Bool)
  -- Campion (11)
  | campionEvent (c : Cluster) (task : Word) (src : EvSrc)
  | bankSwitch (a : Issue)
  | restore (c : Cluster)
  | timerExpiry (c : Cluster) (idx : Nat)
  | quantumEnd (k : CoreId)
  | create (k : CoreId) (c : Cluster) (w1 : Word)
  | ready (k : CoreId) (c : Cluster) (w1 : Word)
  | cancel (k : CoreId) (c : Cluster) (w1 : Word) (race : Bool)
  | setpri (k : CoreId) (c : Cluster) (w1 : Word) (arg : BitVec 8)
  | timer (k : CoreId) (c : Cluster) (w1 : Word)
  | evint (k : CoreId) (c : Cluster) (w1 : Word) (arg : BitVec 8)
  | addarea (k : CoreId) (c : Cluster) (w1 : Word)
  | commandResult (a : Issue) (rd : Reg) (rb : Reg) (disp : BitVec 18)
  -- DMA engines (15)
  | dmaArm (q : Quad) (ch : Chan) (dis : Bool)
  | channelDisable (q : Quad) (ch : Chan)
  | channelEnable (q : Quad) (ch : Chan)
  | listEntryRead (q : Quad) (ch : Chan)
  | dmaTransferStep (q : Quad) (ch : Chan)
  | readBack (q : Quad) (ch : Chan)
  | listCompletion (q : Quad) (ch : Chan)
  | busError (q : Quad) (kind : BusErr) (addr : Nat)
  | haltClear (q : Quad)
  -- Host port (16)
  | nop (rsv : Bool) (arg : Nat)
  | featCommit (rsv : Bool) (arg : Nat)
  | vfFeatCommit (v : PartId) (rsv : Bool) (arg : Nat)
  | partStart (o : Origin) (arg : Nat)
  | partHold (o : Origin) (arg : Nat)
  | holdComplete (p : PartId)
  | partResume (o : Origin) (arg : Nat)
  | partReset (o : Origin) (arg : Nat)
  | recoveryOpen (rsv : Bool) (arg : Nat)
  | recoveryClose (rsv : Bool) (arg : Nat)
  | commandComplete (fn : Nat)
  | flashRead (i3c : Bool) (len : Nat)
  | flashErase (i3c : Bool)
  | flashProgram (i3c : Bool) (len : Nat) (fails : Bool)
  | flashVerify (i3c : Bool) (len : Nat)
  | recoveryOpComplete
  | sqDoorbell (v : PartId) (qp : Fin 8) (value : Nat)
  | cqDoorbell (v : PartId) (qp : Fin 8) (value : Nat)
  | queueEnable (v : PartId) (qp : Fin 8) (value : Nat)
  | queueDisable (v : PartId) (qp : Fin 8) (value : Nat)
  | submission (v : PartId) (qp : Fin 8) (err : Bool)
  | responseSend (v : PartId) (qp : Fin 8) (cid : Nat) (data : List Syl) (err : Bool)
  | coalesceExpiry (v : PartId) (qp : Fin 8)
  | hostPortReset (why : HpReset)
  | vfFlr (v : PartId)
  | registerWrite (fn : Nat) (off : Nat) (width : Nat) (value : Nat)
  | lockupEntryClear (n : Fin 16)
  | lkstatOvfClear
  -- Reads with an effect (00 R12, 16 R504)
  | buSeqhRead
  | hiErrcntRead
  | mcCecntRead (m : StackId)
  | mcUecntRead (m : StackId)
  | scErrcntRead
  | cqLcntRead (l : Link)
  | cbDropRead (c : Cluster)
  | hiQstatRead (v : PartId) (qp : Fin 8)
  -- Shelf Coordination Bus (17)
  | hb (src : Slot64) (epoch : BitVec 16) (y : BusCyc)
  | lkacq (src : Slot64) (lock : LockId) (part : Option PartId) (y : BusCyc)
  | lkwd (src : Slot64) (lock : LockId) (part : Option PartId) (y : BusCyc)
  | lkabn (src : Slot64) (lock : LockId) (part : Option PartId) (y : BusCyc)
  | lkrel (src : Slot64) (lock : LockId) (sq : DWord) (y : BusCyc)
  | grant (dst : Slot64) (lock : LockId) (sq : DWord) (y : BusCyc)
  | grantAb (dst : Slot64) (lock : LockId) (sq : DWord) (y : BusCyc)
  | lease (src : Slot64) (code : Nat) (base : DWord) (y : BusCyc)
  | epoch (sl : Slot64) (live : Bool) (ident : BitVec 18) (ep : BitVec 16) (y : BusCyc)
  | join (src : Slot64) (ident : BitVec 18) (y : BusCyc)
  | time (count : DWord) (acount : BitVec 6) (y : BusCyc)
  | partitionReset (src : Slot64) (p : PartId) (y : BusCyc)
  | lockupNotice (src : Slot64) (ent : Word) (y : BusCyc)
  | fenceNotice (sl : Slot64) (y : BusCyc)
  | moduleDead (sl : Slot64)
  | takeover
  -- Caerquesel fabric (18)
  | frame (l : Link) (f : Frame)
  | replayRequest (l : Link) (fseq : BitVec 18)
  /-- `ok` of a training or a retrain: none where it begins, and its success where it ends -/
  | linkTraining (l : Link) (ok : Option Bool)
  | trainingRetry (l : Link) (ok : Option Bool)
  | retrain (l : Link) (ok : Option Bool)
  | packetForward (p : Packet)
  | epochPacket (h : PktHdr) (ident : BitVec 18) (live : Bool) (ep : BitVec 16)
  | echo (h : PktHdr) (body : List Syl)
  | nak (h : PktHdr)
  | pstrm (h : PktHdr) (sseq : DWord) (rec : List Syl)
  | prd (h : PktHdr) (sseq : DWord)
  | prdata (h : PktHdr) (sseq : DWord) (rec : List Syl) (poison : Bool)
  | checkpoint (p : PartId)
  | pckd (h : PktHdr) (off : Nat) (data : List Syl)
  | pseal (h : PktHdr) (s0 : DWord) (len : Nat) (crc : BitVec 32) (buf : Bool)
  | failover (p : PartId)
  -- Start-up and reset (19)
  | powerOn
  | sfdpDiscovery (s : Sfdp)
  | zeroFill (ok : BitVec 8) (ms : Nat)
  | hostLinkTraining
  | imageCheck (secA : Bool) (secB : Bool) (ms : Nat)
  | laneCalibration
  | tableLoad (t : ImageTables) (div : List (Nat × Nat))
  | coreRelease
  | custodyStart (j0 : Bool) (j1 : Bool)
  | partitionAutostart
  | readyReport (ms : Nat)
  | custodyTimeout
  | moduleReset (why : ResetBy)
  | watchdogExpiry
  | powerDown
  -- Background services, power and temperature (20, 21)
  | yarrowRead (m : StackId) (e : Ecc)
  | lapAlarm
  | channelRetraining (m : StackId) (ch : Fin 32) (ok : Bool)
  | forcedRetraining (m : StackId) (ch : Fin 32) (ok : Bool)
  | retrainingRetry (m : StackId) (ch : Fin 32) (ok : Bool)
  | ageingMeasurement (c : Cluster) (slow : Nat) (tjavg : Nat) (lifemo : Nat)
  | ceilingLowering (c : Cluster)
  | powerSample (w : BitVec 12)
  | clockRaise
  | thermalStep (q : Quad) (tj : Nat)
  | thermalTrip
  | clockLoss
  | railFault
  | telemetrySample
  -- Management and test ports (21 R638-R639)
  | i3cRead (off : Nat)
  | i3cWrite (off : Nat) (value : Nat)
  | bypass
  | samplePreload
  | extest
  | idcode
  | lanetest
  -- Later rows
  | journalDeviceOffline (dev : Bool)
  | journalDeviceOnline (dev : Bool)
  | resetRelease
  | narrowRead (fn : Nat) (off : Nat) (width : Nat)
  | partitionSideSetup (v : PartId) (qp : Fin 8) (slotsz : Fin 4) (task : Word) (ring : Nat) (log2 : Nat)
  | pcieLinkRecovery (port : Fin 3)
  | setdasa (addr : BitVec 7)
  | entdaa (addr : BitVec 7)
  deriving DecidableEq, Repr

end Sys2Proof
end

