-- ==== Sys2Proof/Machine/State.lean ====
section
/-! DEFINITION. The state of the module: everything the spec gives the machine, as plain data, and its value at
reset. Groups that few commands touch are fields of their own, so that a command's frame can be read off its type. -/

namespace Sys2Proof.Machine

/-! ## Contexts and cores (03, 09, 10, 11) -/

/-- An open mode shadow (R98): the pending STATUS value and the instructions still to retire. -/
structure Shadow where
  pend  : Word
  count : Nat
  deriving DecidableEq, Repr

/-- The registers that exist once for each world of a context (R81, R88). `rbank` holds the return-stack entries of
the bank, oldest first; RSD is its length. -/
structure WorldRegs where
  cause : Word := 0
  faddr : Word := 0
  rsp   : Word := 0
  rsb   : Word := 0
  rsl   : Word := 0
  exts  : Tbl DWord := []
  rbank : List Word := []
  deriving DecidableEq, Repr, Inhabited

/-- A context, as a register bank holds it (R357). -/
structure Ctx where
  g      : Tbl Word := []
  pc     : Word := 0
  status : Word := 0o600400000000
  shadow : Option Shadow := none
  wo     : WorldRegs := {}
  wc     : WorldRegs := {}
  sspO   : Word := 0
  sspC   : Word := 0
  xbaseO : Word := 0
  lbeg   : Word := 0
  lend   : Word := 0
  taskid : Word := 0
  partid : Word := 0
  fsr    : Word := 0
  /-- pending class 11 codes with their INFO, Operating and Custody world (R336) -/
  irqO   : Tbl Nat := []
  irqC   : Tbl Nat := []
  /-- core cycles left of a running shield (R341, R343) -/
  shield : Nat := 0
  /-- R347: no interrupt until the first resumed instruction is done -/
  hold   : Bool := false
  /-- the frame of the class 10 entry that is being handled (R382), and the area that SAVEU wrote with the SSP_C of each entry
  it ran in, newest first (R385) -/
  ovfl   : Option Word := none
  saved  : List (Nat × Word) := []
  /-- cores whose acknowledgement of an invalidation is outstanding (R412) -/
  ivOut  : List Nat := []
  deriving DecidableEq, Repr, Inhabited

/-- The held state of a divide stopped at a safe point, with its tag (R203). -/
structure HeldDiv where
  pc    : Word
  ga    : Word
  gb    : Word
  fn    : Nat
  la    : Nat
  lb    : Nat
  scale : Nat
  rule  : Nat
  qdone : Nat
  qtot  : Nat
  a     : Int
  b     : Int
  word  : Word
  deriving DecidableEq, Repr

/-- The float unit of a core: FR0-FR15 and ACC of the owning task (R166, R391). -/
structure FUnit where
  owner : Option Nat := none
  fr    : Tbl DWord := []
  acc   : DWord := 0
  deriving DecidableEq, Repr, Inhabited

/-- The decimal unit of a core: DRS, DACC and the held divide of the owning task (R194, R207, R391). -/
structure DUnit where
  owner : Option Nat := none
  drs   : Word := 0
  dacc  : Int := 0
  held  : Option HeldDiv := none
  deriving DecidableEq, Repr, Inhabited

/-- What a cached translation or walk-cache entry carries, and the addresses from `vbase` on that it covers (R409). -/
structure XlTag where
  bank   : Nat
  world  : Bool
  partid : Word
  ext    : Nat
  vbase  : Nat
  size   : Nat
  deriving DecidableEq, Repr

/-- A cached translation (R409); `leaf` is the leaf's address and value for a paged one. -/
structure TlbEnt extends XlTag where
  pbase  : Nat
  rd     : Bool
  wr     : Bool
  ex     : Bool
  us     : Bool
  leaf   : Option (Nat × DWord)
  deriving DecidableEq, Repr

/-- An exception or machine check with the fields that CAUSE and FADDR take (R327, R328). -/
structure Exc where
  cls   : Nat
  code  : Nat
  acc   : Nat := 0
  faddr : Nat := 0
  info  : Nat := 0
  asyn  : Bool := false
  deriving DecidableEq, Repr

/-- An entry whose checks have passed and whose frame waits for room in the store queue: the exception, the world that
takes it, and the PC to save (R331). -/
structure EntryWait where
  exc : Exc
  w   : Bool
  pc  : Word
  deriving DecidableEq, Repr

/-- A walk-cache entry: the table that a level 1 or level 2 entry names, and the levels that are left below it (R409). -/
structure WalkEnt extends XlTag where
  table  : Nat
  lvls   : Nat
  deriving DecidableEq, Repr

/-- A line in a cache, with the poison bits of its two half-lines (R422, R444). -/
structure CLine where
  line   : Nat
  dirty  : Bool := false
  poison : Bool × Bool := (false, false)
  deriving DecidableEq, Repr

/-- A set of a cache: its lines by way, and its pseudo-LRU tree, the bit of node `n` at 2^n (R422). -/
structure CSet where
  lines : Tbl CLine := []
  tree  : Nat := 0
  deriving DecidableEq, Repr, Inhabited

/-- A cache's sets by number. -/
abbrev Cache := Tbl CSet

/-- A key in a cluster's key cache: the frame and its key syllable as it was read (R418). -/
structure KeyEnt where
  frame : Nat
  key   : Syl
  deriving DecidableEq, Repr

/-- An entry of a branch target buffer: the branch, the world of its code, and its target (R306, R307). -/
structure TgtEnt where
  pc     : Word
  world  : Bool
  target : Word
  deriving DecidableEq, Repr

/-- A bank's slice of the predictor (R306): target entries by set, the two-bit counters that are not weakly not-taken, the
history of directions, and the context that the bank held last: its TASKID, PARTID and world (R308). -/
structure Slice where
  tgts : Tbl (List TgtEnt) := []
  ctrs : Tbl (BitVec 2) := []
  hist : BitVec 12 := 0
  last : Option (Word × Word × Bool) := none
  deriving DecidableEq, Repr, Inhabited

/-- A retired store that waits in the store queue (R299): its physical address, its syllables, and what R407 and
R417 need at its commit. -/
structure StoreEnt where
  pa    : Nat
  va    : Nat
  data  : List Syl
  bank  : Nat
  world : Bool
  sup   : Bool
  /-- the leaf whose dirty mark the commit sets (address, value the walk read) -/
  leaf  : Option (Nat × DWord)
  /-- the store met a line locked by a Balance Unit (R644) -/
  retry : Bool := false
  /-- an SDW: the issuing context at its retirement (R364) -/
  sdw   : Option Ctx := none
  /-- the partition whose context retired it (R463) -/
  part  : Option Nat := none
  deriving DecidableEq, Repr

/-- A remote-slot request that waits for its answer (R149, R564). -/
structure RemReq where
  tag  : BitVec 16
  rd   : Reg
  slot : Nat
  deriving DecidableEq, Repr

/-- What a string instruction keeps while it runs (07): G2 and G3 as unbounded numbers, units done, safe points passed, the
phase of R227, the destination addresses that R225 makes indeterminate, and the source octets that EDIT has read. -/
structure Loop where
  g2    : Nat
  g3    : Nat
  units : Nat := 0
  safe  : Nat := 0
  phase : Nat := 0
  ind   : List Nat := []
  src   : List (Nat × Octet) := []
  deriving DecidableEq, Repr

/-- A string instruction that waits for a locked line and goes on in place (R644): the task, its PC, G1-G4, the loop, and
the table of TRS or SCN. -/
structure StrHold where
  task : Word
  pc   : Word
  gs   : List Word
  loop : Loop
  tbl  : List Syl
  deriving DecidableEq, Repr

/-- The microcode sequencer in a routine: the next microaddress and the micro-stack, newest first (R318, R319). -/
structure USeq where
  addr  : Nat
  stack : List Nat := []
  deriving DecidableEq, Repr

/-- A serialising instruction that waits (R320, conditions 12 and 13). -/
inductive WaitC where
  | ivsync | fence (long : Bool)
  deriving DecidableEq, Repr

/-- What an invalidation removes (R410). -/
inductive InvScope where
  | addr (custody : Bool) (partid : Word) (va : Nat)
  | ofPartid (custody : Bool) (partid : Word)
  | part (p : Nat)
  | all
  deriving DecidableEq, Repr

/-- An invalidation on its way to a core: the core, its slot and the task that issued it. -/
structure InvReq where
  scope : InvScope
  src   : Nat
  slot  : Option Nat
  task  : Word
  deriving DecidableEq, Repr

/-- An acknowledgement on its way: the core that sent it, and the slot and the task that it is for. -/
structure InvAck where
  core : Nat
  slot : Option Nat
  task : Word
  deriving DecidableEq, Repr

/-- A logical core. -/
structure Core where
  /-- the physical slot that carries it; none while it is absent (R19) -/
  slot     : Option Nat := none
  /-- the bank of the running context; none while the core is idle -/
  cur      : Option Nat := none
  banks    : Tbl Ctx := []
  xbaseC   : Word := 0
  divm     : Bool := true
  fu       : FUnit := {}
  du       : DUnit := {}
  sq       : List StoreEnt := []
  /-- the instruction, the data and the second-level translation buffer (R409) -/
  tlbI     : List TlbEnt := []
  tlbD     : List TlbEnt := []
  tlb2     : List TlbEnt := []
  remote   : Option RemReq := none
  remCnt   : Nat := 0
  waitc    : Option WaitC := none
  /-- received invalidations, oldest first, and acknowledgements on their way here (R411, R412) -/
  invq     : List InvReq := []
  acks     : List InvAck := []
  /-- stores at the head of the queue that must commit before an IVSYNC completes (R412) -/
  ivSt     : Nat := 0
  /-- the walk cache (R409) -/
  walkc    : List WalkEnt := []
  stopped  : Bool := false
  /-- Campion's request for a bank switch: the bank to switch to, or none for idle (R333, R334) -/
  switchTo : Option (Option Nat) := none
  lastPc   : Word := 0
  /-- a string instruction that waits for a locked line (R644) -/
  strHold  : Option StrHold := none
  /-- the sequencer of an instruction that waits (R320) -/
  useq     : Option USeq := none
  /-- an entry that waits for the store queue (R331) -/
  entry    : Option EntryWait := none
  /-- the predictor's slices by bank (R306) -/
  pred     : Tbl Slice := []
  l1i      : Cache := []
  /-- parity errors of the L1-I (R424), uncorrectable errors of the L1-D and L2 (R447) -/
  l1iErr   : Nat := 0
  uncErr   : Nat := 0
  l1d      : Cache := []
  l2       : Cache := []
  cyc      : Nat := 0
  dispCyc  : Nat := 0
  deriving DecidableEq, Repr, Inhabited

/-! ## Memory side (13) -/

/-- A directory entry (R427): owner or sharers, and the request in progress of state T (R429). -/
structure DirEnt where
  owner   : Option Agent := none
  sharers : List Nat := []
  pend    : Option (Agent × Bool) := none
  /-- the owner has answered that a writeback of it is on the way (R431) -/
  inFlight : Bool := false
  /-- such answers that are still to come after the writeback itself has arrived -/
  late    : Nat := 0
  /-- order of the last use (R428) -/
  stamp   : Nat := 0
  deriving DecidableEq, Repr, Inhabited

/-- What an agent asks a home agent for: a line to share or to own, or an uncached read or write (R426, R432). -/
inductive LineReq where
  | share
  | own
  | read (a n : Nat)
  | write (a : Nat) (data : List Syl)
  deriving DecidableEq, Repr

/-- An entry of a home agent's line tracker (R429). -/
structure Waiter where
  agent : Agent
  line  : Nat
  req   : LineReq
  deriving DecidableEq, Repr

/-- One stack's controller: MC_STAT, MC_CECNT, MC_UECNT, MC_ERRADDR, MC_ERRSYN and its retraining state. -/
structure Mc where
  up     : Bool := false
  filld  : Bool := false
  fail   : Bool := false
  uev    : Bool := false
  cev    : Bool := false
  lost   : Bool := false
  fillms : Nat := 0
  ceD    : Nat := 0
  ceS    : Nat := 0
  ueN    : Nat := 0
  ueP    : Nat := 0
  errV   : Bool := false
  errKind : Nat := 0
  errSrc : Nat := 0
  errCw  : Nat := 0
  errSyn : BitVec 32 := 0
  /-- writes that a lost stack discarded, reads that it answered with poison (R449), and entries that the directory evicted
  (R428) -/
  discards : Nat := 0
  deadRds : Nat := 0
  evicts  : Nat := 0
  /-- channels whose last retraining failed (R613) -/
  failed : List Nat := []
  /-- Yarrow: the next line's stack offset, and whether the pass is done (R605, R606) -/
  ptr    : Nat := 0
  atEnd  : Bool := false
  inLap  : Bool := false
  /-- counts of R624 since start: corrections, uncorrectables, retrainings, forced retrainings, Yarrow lines read -/
  telCorr   : Nat := 0
  telUnc    : Nat := 0
  telRetr   : Nat := 0
  telForced : Nat := 0
  telLines  : Nat := 0
  deriving DecidableEq, Repr, Inhabited

/-! ## Campion (11) -/

/-- Values that CREATE keeps with a task until its first placement (R388). -/
structure Task where
  state  : Nat := 0
  pri    : Nat := 0
  part   : Nat := 0
  noPart : Bool := false
  w      : Bool := false
  evmask : Nat := 0
  gen    : Nat := 0
  events : Nat := 0
  /-- INFO of the event source last recorded is the source itself (R333) -/
  resid  : Option (Nat × Nat) := none
  save   : Option Nat := none
  tdl    : Nat := 0
  run    : Nat := 0
  usedF  : Bool := false
  usedD  : Bool := false
  held   : Option HeldDiv := none
  init   : Option Ctx := none
  prior  : Nat := 0
  stamp  : Nat := 0
  cancel : Bool := false
  /-- pending class 11 codes of a spilled context (R336) -/
  irqO   : Tbl Nat := []
  irqC   : Tbl Nat := []
  /-- cores whose acknowledgement a spilled context still awaits (R412) -/
  ivOut  : List Nat := []
  deriving DecidableEq, Repr, Inhabited

/-- A cluster's scheduler. -/
structure Campion where
  tasks   : Tbl Task := []
  /-- READY and SPILLED_READY tasks in the order in which they were queued (R369) -/
  ready   : List Nat := []
  vtime   : Tbl Nat := []
  freeHd  : Option Nat := none
  freeN   : Nat := 0
  /-- last result of each issuing task: status and TASKID (R364) -/
  results : Tbl (Nat × Word) := []
  evDrop  : Nat := 0
  rcDrop  : Nat := 0
  heldN   : List Nat := []
  /-- tasks placed on a core that wait for a bank: (task, core) (R382) -/
  placing : List (Nat × Nat) := []
  /-- tasks that no core can take a victim for (R383) -/
  blocked : List Nat := []
  clock   : Nat := 0
  deriving DecidableEq, Repr, Inhabited

/-! ## Partitions (14) -/

/-- A notice that waits for room (R467): STATUS, TASKID, DETAIL, MERGED. -/
structure HeldNotice where
  status : Nat
  task   : Word
  detail : Word
  merged : Nat
  deriving DecidableEq, Repr

/-- What follows the end of a reset: 603 to the PF's command, the loss of a stack that happened meanwhile, or 530 to a partition
whose standby has taken over (R462, R464, R573). -/
inductive ResetThen where
  | report | loss (m : Nat) | failover
  deriving DecidableEq, Repr

structure Part where
  st     : Nat := 0
  last   : Nat := 0
  lostm  : BitVec 8 := 0
  auto   : Bool := false
  ent    : List Word := []
  resP   : Nat := 0
  resD   : Nat := 0
  held   : Tbl HeldNotice := []
  init   : Option (Nat × Word) := none
  /-- a HOLD whose 602 is still to be reported, with its origin (true: the PF) -/
  holding : Option Bool := none
  /-- what the end of the reset in progress leads to, in order (R464) -/
  after  : List ResetThen := []
  deriving DecidableEq, Repr, Inhabited

/-! ## Balance Units and the journal (08) -/

/-- Where a posting stands (R259). -/
inductive Phase where
  | lockWait      -- step 5, parked on a line
  | ringWait      -- step 7, parked
  | partWait      -- step 8, waiting for participants
  | prepared      -- step 8, 201 reported, waiting for COMMIT or ABORT
  | kind1Wait     -- participant, its kind 1 record is not yet durable
  | partReady     -- participant, PREPARED answered
  | seqWait       -- step 9
  | durWait       -- past the commit point, DUR = 1
  | kind2Wait     -- coordinator past the commit point, kind 2 record not yet durable
  | ackWait       -- coordinator, COMMIT sent
  | abortWait     -- participant, aborted, waiting for ring space for its kind 4 record
  deriving DecidableEq, Repr

structure Posting where
  slot   : Nat
  op     : Nat
  sub    : Option Nat
  part   : Nat
  ring   : Option Nat
  pid    : DWord
  dur    : Bool
  fmt    : Nat
  tmo    : Nat
  curs   : List Nat
  legs   : List Leg
  age    : Age
  task   : Nat × Word
  phase  : Phase
  /-- physical line of each local leg, by leg index -/
  lines  : Tbl Nat := []
  locks  : List Nat := []
  want   : List Nat := []
  /-- the new balance syllables, by address -/
  image  : List (Nat × Syl) := []
  /-- other modules of the posting: (identity, answered PREPARED, acknowledged), and those to which PREP has gone -/
  others : List (Nat × Bool × Bool) := []
  told   : List Nat := []
  /-- participant: the coordinator's module, partition, link and the PREP's tag -/
  coord  : Option (Nat × Nat × Nat × BitVec 16) := none
  seqn   : Nat := 0
  /-- the number that the allocator has assigned and the posting has not yet committed under (R261) -/
  num    : Option Nat := none
  /-- records that the posting still has to see durable -/
  recs   : Nat := 0
  wounded : Bool := false
  quiet  : Bool := false
  /-- order of acceptance, and the completion-ring slots and journal records still reserved for it -/
  ord    : Nat := 0
  resv   : Nat := 0
  jres   : Nat := 0
  deriving DecidableEq, Repr

/-- An appended commit record that is not yet durable (R274). -/
structure JRec where
  pos   : Nat
  part  : Nat
  seqn  : Nat
  kind  : Nat
  /-- the posting that waits for it, or none -/
  slot  : Option Nat
  /-- the Write has been issued, and the number of the Flush issued after it (R274) -/
  wrote : Bool := false
  batch : Nat := 0
  need0 : Bool := false
  need1 : Bool := false
  /-- the standby's PACK is still owed, by stream sequence -/
  pack  : Option Nat := none
  deriving DecidableEq, Repr

/-- A 4,096-octet block of a journal device (R599): the fields of its 64-octet header, whose places in it the spec does not
give, and its records of 144 octets. -/
structure JBlock where
  quad  : Nat
  seqn  : Nat
  count : Nat
  crc   : BitVec 32
  recs  : List (List Octet)
  deriving DecidableEq, Repr

/-- One Balance Unit with its quadrant's journal ring. -/
structure Bu where
  posts  : Tbl Posting := []
  jpos   : Nat := 0
  recs   : List JRec := []
  /-- a record the Journal Writer could not read stops the ring (R448) -/
  stuck  : Bool := false
  /-- decisions kept for RESOLVE: (PID, sequence number) of durable kind 2 records -/
  kind2  : List (DWord × Nat) := []
  /-- Flushes issued, and those that J0 and J1 have not completed, oldest first (R274) -/
  batch  : Nat := 0
  fl0    : List Nat := []
  fl1    : List Nat := []
  /-- PREP messages that wait for room (R29, R252) -/
  preps  : List (PktHdr × PrepMsg) := []
  accepts : Nat := 0
  /-- completion records that wait until their ring's header can be read (R465): partition, record, task -/
  owed   : List (Nat × List Syl × Word) := []
  deriving DecidableEq, Repr, Inhabited

/-- The sequence allocator (R269-R271): leases as (first, end), the next number, the floor and the highest. -/
structure Alloc where
  leases  : List (Nat × Nat) := []
  next    : Nat := 0
  floor   : Nat := 0
  highest : Nat := 0
  asking  : Bool := false
  deriving DecidableEq, Repr, Inhabited

/-! ## DMA (15) -/

/-- A translated segment: side (true: host), start and length, in syllables or octets. -/
structure Seg where
  side : Bool
  base : Nat
  len  : Nat
  deriving DecidableEq, Repr

structure DList where
  cfg    : Word
  task   : Word
  tag    : Word
  nextE  : Nat
  nread  : Nat := 0
  srcs   : List Seg := []
  dsts   : List Seg := []
  bms    : List Seg := []
  ended  : Bool := false
  moved  : Nat := 0
  stat   : Option Nat := none
  bad    : Nat := 0
  hostLast : Option Nat := none
  readBk : Bool := false
  /-- marks moved and not yet written to the bitmap, and bitmap octets written -/
  bits   : List Bool := []
  bmDone : Nat := 0
  deriving DecidableEq, Repr

structure DChan where
  ccfg  : Word := 0
  ctask : Word := 0
  ctag  : Word := 0
  clist : Word := 0
  dis   : Bool := true
  ares  : Nat := 0
  done  : Nat := 0
  lists : List DList := []
  deriving DecidableEq, Repr, Inhabited

structure Dma where
  chans : Tbl DChan := []
  halt  : Bool := false
  drain : Bool := false
  kind  : Nat := 0
  halts : Nat := 0
  errV  : Bool := false
  errSide : Bool := false
  errLine : Nat := 0
  /-- the channel whose turn at the funnel is next (R33, R474), and the requester of the last host request: n + 1 for the virtual
  function of Pn (R479) -/
  grant : Nat := 0
  reqId : Nat := 0
  deriving DecidableEq, Repr, Inhabited

/-! ## Host port (16) -/

/-- A submission that has no response yet (R518). -/
structure Sub where
  cid  : Nat
  addr : Nat
  max  : Nat
  deriving DecidableEq, Repr

structure Qp where
  sqbase : Word := 0
  cqbase : Word := 0
  qcfg   : Word := 0
  sqtail : Word := 0
  cqhead : Word := 0
  st     : Nat := 0
  code   : Nat := 0
  stray  : Nat := 0
  sqhd   : Nat := 0
  cqtl   : Nat := 0
  phase  : Bool := true
  subs   : List Sub := []
  /-- the partition side: SLOTSZ, bound task, receive ring and its LOG2 (R517) -/
  side   : Option (Nat × Word × Nat × Nat) := none
  coal   : Bool := false
  /-- send slots taken: CONS of the send ring (R518) -/
  sent   : Nat := 0
  deriving DecidableEq, Repr, Inhabited

structure Vf where
  acc    : Nat := 0
  set    : Nat := 0
  fcomm  : Bool := false
  errV   : Bool := false
  errR   : Nat := 0
  errB   : Nat := 0
  busy   : Bool := false
  op     : Nat := 0
  code   : Nat := 0
  run    : Option Nat := none
  qps    : Tbl Qp := []
  /-- MSI-X table octets (R504) -/
  msixT  : Tbl Octet := []
  deriving DecidableEq, Repr, Inhabited

structure Pf where
  ready  : Bool := false
  fcomm  : Bool := false
  rwopen : Bool := false
  logV   : Bool := false
  logK   : Nat := 0
  logF   : Nat := 0
  logO   : Nat := 0
  cnt    : Nat := 0
  busy   : Bool := false
  op     : Nat := 0
  code   : Nat := 0
  /-- status of the running command, shown when it completes -/
  run    : Option Nat := none
  acc    : Nat := 0
  set    : Nat := 0
  errV   : Bool := false
  errR   : Nat := 0
  errB   : Nat := 0
  buf    : Tbl Octet := []
  rwaddr : Nat := 0
  rwbusy : Bool := false
  rwcode : Nat := 0
  rwrun  : Nat := 0
  /-- flash range that a running erase or program covers: offset and length (R603) -/
  rwrange : Option (Nat × Nat) := none
  msixT  : Tbl Octet := []
  linkUp : Bool := false
  /-- PCIe link recoveries by port: 0 the host port, 1 and 2 the journal ports (R614, R624) -/
  recoveries : Tbl Nat := []
  /-- MSI-X vectors signalled: (function, vector), newest first; and those that wait for their mask bit to clear (R502) -/
  msix   : List (Nat × Nat) := []
  msixP  : List (Nat × Nat) := []
  deriving DecidableEq, Repr, Inhabited

/-! ## Tansy (01, 10, 19) -/

/-- What a physical slot is (R18, R44-R49). -/
inductive SlotSt where
  | off | active (k : Nat) | spare | testing | retired
  deriving DecidableEq, Repr, Inhabited

/-- A core's patch RAM, from microaddress 16,384 on, and its patch-match registers: (ROM address, patch RAM address)
(R318, R322). -/
structure Patch where
  ram  : List (BitVec 144) := []
  regs : List (Option (Nat × Nat)) := []
  deriving DecidableEq, Repr, Inhabited

structure Slot where
  st     : SlotSt := .off
  beat   : Bool := false
  missed : Nat := 0
  drops  : Nat := 0
  patch  : Patch := {}
  /-- how often the slot was substituted (R624), and its requests whose answers will be discarded (R29) -/
  substs : Nat := 0
  owed   : List (BitVec 16) := []
  /-- failed self-checks of the reciprocal table since the core was started (R596), and a table that Tansy has still to reload
  (R162) -/
  divFails : Nat := 0
  divBad   : Bool := false
  deriving DecidableEq, Repr, Inhabited

/-- A lockup-map entry (TS_LKENTA, TS_LKENTB). -/
structure LkEnt where
  kind : Nat
  core : Nat
  slot : Nat
  cls  : Nat
  code : Nat
  part : Nat
  pc   : Word
  deriving DecidableEq, Repr

/-- Tansy: the slots that it watches, and the state of its own core, of which no command of the table shows a step: its
registers, its SRAM, and its branch target buffer (R575, R578). -/
structure Tansy where
  slots  : Tbl Slot := []
  lk     : Tbl LkEnt := []
  ovf    : Bool := false
  divReloads : Nat := 0
  divFailed  : Nat := 0
  discards   : Nat := 0
  substs : Nat := 0
  core   : Ctx := {}
  sram   : Tbl Syl := []
  btb    : List (Word × Word) := []
  /-- blown retirement fuses, by physical slot 9c + slot (R18, R45); no reset changes them -/
  retired : List Nat := []
  deriving DecidableEq, Repr, Inhabited

/-! ## Tables from the image (R584) -/

structure CodePage where
  hdr  : Word
  ents : List Half
  deriving DecidableEq, Repr

structure PatTable where
  hdr  : DWord
  ents : List DWord
  deriving DecidableEq, Repr

structure Tables where
  img      : ImageTables := {}
  loaded   : Bool := false
  patch    : List Octet := []
  keys     : Tbl (List Octet) := []
  formats  : Tbl DWord := []
  rules    : Tbl Word := []
  pages    : Tbl CodePage := []
  patterns : Tbl PatTable := []
  deriving DecidableEq, Repr, Inhabited

/-! ## The seal unit (10 R354-R356) -/

/-- The working state of a computation, by the physical address of its state area. `snap` holds the octets that the
unit left in the area's working part; `bad` says that software changed them, or that no SHINIT began the computation, so
that no result is stated. `phase` of GCM: 0 started, 1 AAD, 2 AAD ended, 3 data, 4 data ended, 5 finished
(DESIGN CHOICE, log 44). -/
structure SealSt where
  gcm   : Bool
  hash  : List (BitVec 64) := []
  key   : List Octet := []
  iv    : List Octet := []
  y     : BitVec 128 := 0
  phase : Nat := 0
  aad   : Nat := 0
  dat   : Nat := 0
  bad   : Bool := false
  snap  : List Octet := []
  deriving DecidableEq, Repr

/-! ## Shelf Coordination Bus (17) -/

/-- A slot of the epoch table. -/
structure EpSlot where
  live  : Bool := false
  epoch : BitVec 16 := 0
  ident : Nat := 0
  deriving DecidableEq, Repr, Inhabited

/-- How far a request has come: in the port, asked for on the bus, granted, taken; or to be withdrawn (R536, R537). -/
inductive ReqSt where
  | queued | sent | granted (ab : Bool) (sq : Nat) | held | leaving
  deriving DecidableEq, Repr

/-- A request of a partition for a lock, in the port (R535, R536): requester (none: Custody), the task to notify, and
how far it has come. -/

structure LockReq where
  part : Option Nat
  task : Nat × Word
  st   : ReqSt
  deriving DecidableEq, Repr

/-- What the port, or the master, has still to launch on the bus (R533); a partition of none stands for Custody. -/
inductive BusMsg where
  | lkacq (lock : Nat) (part : Option Nat)
  | lkwd (lock : Nat) (part : Option Nat)
  | lkabn (lock : Nat) (part : Option Nat)
  | lkrel (lock sq : Nat)
  | lease (code : Nat)
  | join
  | notice (kind : Nat) (detail : Word)
  | grant (slot lock sq : Nat) (ab : Bool)
  | epoch (slot : Nat) (live : Bool) (ident ep : Nat)
  deriving DecidableEq, Repr

/-- What a launcher drives: CMD, ID, ADR, and DAT of both cycles, the first in the upper word (R522, R533). -/
structure Wires where
  cmd : BitVec 4
  id  : BitVec 6
  adr : BitVec 12
  dat : DWord
  deriving DecidableEq, Repr

structure Port where
  role   : Nat := 3
  tsync  : Bool := false
  desync : Bool := false
  epoch  : BitVec 16 := 0
  takeovers : Nat := 0
  parerr : Nat := 0
  noans  : Nat := 0
  stale  : Nat := 0
  count  : Nat := 0
  acount : BitVec 6 := 0
  slots  : Tbl EpSlot := []
  locks  : Tbl (List LockReq) := []
  /-- commands that the port has to launch, oldest first -/
  out    : List BusMsg := []
  joining : Bool := false
  /-- the oldest command is a broadcast of which one copy has gone out (R532) -/
  again  : Bool := false
  /-- broadcasts of which one copy has come, by launcher: what it is and the slot that it names, and whether that copy had a parity
  error (R532) -/
  copies : Tbl (Nat × Nat × Bool) := []
  /-- the last command on the bus: what this module drove as its launcher, and its answer and DAT as the responder (R531, R533) -/
  drove  : Option Wires := none
  answer : Option (Rsp × DWord) := none
  /-- a new master answers nothing before it has broadcast EPOCH and TAKEOVER (R544) -/
  mute   : Bool := false
  /-- the image's standby is the master -/
  atS    : Bool := false
  deriving DecidableEq, Repr, Inhabited

/-- A lock in the master's (or the standby's mirrored) table (R539). -/
structure MLock where
  holder : Option (Nat × Option Nat) := none
  sq     : Nat := 0
  ab     : Bool := false
  wait   : List (Nat × Option Nat) := []
  deriving DecidableEq, Repr, Inhabited

/-- The lock and lease tables of the shelf's master, as this module keeps them while it is master or standby. -/
structure Master where
  locks  : Tbl MLock := []
  /-- end of the highest lease issued -/
  lend   : Nat := 0
  out    : List BusMsg := []
  again  : Bool := false
  deriving DecidableEq, Repr, Inhabited

/-! ## Fabric (18) -/

structure CqLink where
  st       : Nat := 0
  retrains : Nat := 0
  fails    : Nat := 0
  replay   : Nat := 0
  stale    : Nat := 0
  naks     : Nat := 0
  rxSeq    : BitVec 18 := 0
  txSeq    : BitVec 18 := 0
  /-- the last frames sent (R548), and the credits of received packets that no frame has returned yet, by VC (R547) -/
  sent     : List Frame := []
  owe      : List Nat := [0, 0, 0, 0]
  egress   : List Packet := []
  credits  : List Nat := [32, 32, 64, 8]
  /-- packets of each VC that found no credit (R27, R28) -/
  stalls   : List Nat := [0, 0, 0, 0]
  /-- received segments of incomplete messages -/
  rx       : List Packet := []
  /-- the frame of the last replay request: the other end has every frame before it (R548, R552) -/
  acked    : Option (BitVec 18) := none
  /-- the frames of the last replay that this end made, in order (R548) -/
  resent   : List Frame := []
  /-- counts of R624 since start: replays, stale discards -/
  telReplay : Nat := 0
  telStale  : Nat := 0
  deriving DecidableEq, Repr, Inhabited

/-- A stream record that a standby holds (R567): its stream sequence, the quadrant of its engine, its 128 syllables, and
the devices whose Flush it awaits once it is written. -/
structure StrRec where
  sseq  : Nat
  quad  : Nat
  data  : List Syl
  wrote : Bool
  need0 : Bool
  need1 : Bool
  batch : Nat := 0
  deriving DecidableEq, Repr

/-- A seal whose buffer a Balance Unit holds a line of (R262): S0, length, CRC, buffer. -/
structure SealMsg where
  hdr : PktHdr
  s0  : Nat
  len : Nat
  crc : BitVec 32
  buf : Bool
  deriving DecidableEq, Repr

/-- A pair's engine state (R566-R571). -/
structure PairSt where
  st     : Nat := 0
  /-- the newest sealed checkpoint: whether there is one, its buffer, its S0, and how many were sealed since SYNCING -/
  hasSeal : Bool := false
  buf    : Bool := false
  s0     : Nat := 0
  sealed : Nat := 0
  /-- active side: last stream sequence sent; standby: last one up to which every record is durable -/
  sseq   : Nat := 0
  /-- active side: highest sequence number that the partition has committed -/
  top    : Nat := 0
  /-- active side: frames changed since buffer A or B was last copied, and whether the buffer was ever sealed -/
  chgA   : List Nat := []
  chgB   : List Nat := []
  fullA  : Bool := false
  fullB  : Bool := false
  /-- active side: the copy that awaits its seal's answer: buffer and frames -/
  pend   : Option (Bool × List Nat) := none
  /-- active side: the pair has been DEGRADED since it was last PAIRED -/
  degraded : Bool := false
  /-- standby: received records, and the lines received for the buffer being copied, each with its POISON -/
  recs   : List StrRec := []
  got    : Tbl (List Syl × Bool) := []
  late   : Option SealMsg := none
  /-- standby: the active side's record has changed to LIVE = 0 -/
  lost   : Bool := false
  deriving DecidableEq, Repr, Inhabited

structure Fabric where
  links   : Tbl CqLink := []
  /-- epoch records of the peers: identity to (LIVE, epoch) -/
  peers   : Tbl (Bool × BitVec 16) := []
  pairs   : Tbl PairSt := []
  cpDrops : Nat := 0
  /-- response and maintenance packets whose route entry is not valid (R556) -/
  held    : List Packet := []
  /-- the link that a message whose last segment has not come took: SRC, TAG, link (R554) -/
  paths   : List (Nat × BitVec 16 × Nat) := []
  deriving DecidableEq, Repr, Inhabited

/-! ## Power, clocks, ageing, pins (20, 21) -/

structure Pwr where
  /-- blown ageing fuses by cluster (R616), and how many of them its CK_CORE already follows (R617) -/
  steps   : Tbl Nat := []
  applied : Tbl Nat := []
  /-- 100 MHz reductions of every cluster that are in force (R634) -/
  down    : Nat := 0
  slow    : Tbl Nat := []
  lifeV   : Bool := false
  lifemo  : Nat := 0
  tjavg   : Nat := 0
  lclus   : Nat := 0
  twarn   : Bool := false
  plim    : Bool := false
  clkloss : Bool := false
  rail    : Bool := false
  ttrip   : Bool := false
  ywAlarm : Bool := false
  pkgw    : BitVec 12 := 0
  throt   : Nat := 0
  /-- 100 MHz reductions of a quadrant's clusters that are in force (R635) -/
  cooling : Tbl Nat := []
  clocksStopped : Bool := false
  lapLast : Nat := 0
  lapBest : Nat := 0
  lapMs   : Nat := 0
  tmHead  : Nat := 0
  /-- telemetry samples by buffer: the first free value of the counters that the model does not count, and the others -/
  ring    : Tbl (Nat × Tbl Nat) := []
  pwrgood : Bool := false
  rstLow  : Bool := false
  j0Low   : Bool := true
  j1Low   : Bool := true
  perst   : Bool := false
  bscan   : Nat := 0
  i3cAddr : Option (BitVec 7) := none
  i3cData : Nat := 0
  deriving DecidableEq, Repr, Inhabited

/-! ## Start-up (19) -/

structure Boot where
  /-- steps of R592 that have completed -/
  steps  : List Nat := []
  sstat  : Nat := 0
  halted : Bool := false
  ares   : Nat := 0
  bres   : Nat := 0
  chosen : Bool := false
  cv     : Bool := false
  warn   : Nat := 0
  rej    : Nat := 0
  readyMs : Nat := 0
  choseMs : Nat := 0
  gena   : Nat := 0
  genb   : Nat := 0
  mode   : Nat := 0
  deriving DecidableEq, Repr, Inhabited

/-- Fuses that no reset changes (R601) other than the retirement fuses and the ageing steps. -/
structure Fuses where
  keyHash : List Octet := []
  devKey  : List Octet := []
  deriving DecidableEq, Repr, Inhabited

/-! ## The module -/

/-- The processing part of the module: what the instructions of the cores can reach. -/
structure Sys where
  cores   : Tbl Core := []
  /-- the L3 of each cluster (R422) -/
  l3      : Tbl Cache := []
  /-- uncorrectable errors found in each L3 (R447) -/
  l3Err   : Tbl Nat := []
  mem     : Tbl Syl := []
  /-- code words of memory stored in poison form, and bits of others that have changed since they were written (R437, R444) -/
  poison  : List Nat := []
  flips   : Tbl (BitVec 320) := []
  /-- the key cache of each cluster, by set (R418) -/
  keyc    : Tbl (Tbl (List KeyEnt)) := []
  dirs    : Tbl DirEnt := []
  /-- uncached writes that wait for a line that a Balance Unit has locked: SRC, address, data (R262) -/
  late    : List (Nat × Nat × List Syl) := []
  /-- the line trackers, in the order of R430 (R429) -/
  tracker : List Waiter := []
  /-- counter of the directories' uses -/
  dirUse  : Nat := 0
  mcs     : Tbl Mc := []
  host    : Tbl Octet := []
  camp    : Tbl Campion := []
  parts   : Tbl Part := []
  bus     : Tbl Bu := []
  alloc   : Alloc := {}
  j0up    : Bool := false
  j1up    : Bool := false
  /-- blocks on the devices J0 and J1, newest first (R599) -/
  jdev0   : List JBlock := []
  jdev1   : List JBlock := []
  dmas    : Tbl Dma := []
  tansy   : Tansy := {}
  tabs    : Tables := {}
  seals   : Tbl SealSt := []
  port    : Port := {}
  fab     : Fabric := {}
  pf      : Pf := {}
  vfs     : Tbl Vf := []
  seqlLatch : Nat := 0
  timeUs  : Nat := 0
  /-- counter of the free values -/
  free    : Nat := 0
  deriving DecidableEq, Repr, Inhabited

/-- Why the module stops with a fault. -/
inductive Fault where
  /-- A home-agent command names an address outside the 2^38 syllables of memory (R398, R425): raised by the
  coherence commands of 13. Safe: no such request exists. -/
  | noSuchAddress (addr : Nat)
  deriving DecidableEq, Repr

/-- Why a command has no meaning in the model. -/
inductive Refusal where
  /-- The command is not modelled yet; raised by its arm of the dispatch only. Safe. -/
  | notModelled (mnemonic : String)
  deriving DecidableEq, Repr

/-- The state of the module with the queue of the commands that wait, first in, first out. -/
structure State where
  sys     : Sys := {}
  master  : Master := {}
  pwr     : Pwr := {}
  boot    : Boot := {}
  fuses   : Fuses := {}
  /-- the configuration flash's octets that differ from the erased value (R581) -/
  flash   : Tbl Octet := []
  /-- what the sections without a layout in the spec say, by their octets, for the images loaded so far (R3) -/
  configs : List (List (List Octet) × ImageTables) := []
  pending : List Instr := []
  deriving DecidableEq, Repr, Inhabited

/-- The module before PWRGOOD rises: every register at its reset value, no bit of memory set, no table loaded
(DESIGN CHOICE, log 2). -/
def State.reset : State := {}

/-- What the module holds after it lost a reference or a rail (R628, R631): a free value of the whole state
(DESIGN CHOICE, log 51). -/
opaque lostState (n : Nat) : State

end Sys2Proof.Machine
end

