-- ==== Sys2Proof/Machine/Bits.lean ====
section
/-! DEFINITION. Bit fields in Kazwick numbering (bit 0 the most significant, R8), units and their syllables (R52),
sparse tables and the canonical memory. -/

namespace Sys2Proof.Machine

/-- Bits `i` to `j` of `w`, Kazwick numbering, as a number. -/
def fld {n : Nat} (w : BitVec n) (i j : Nat) : Nat := (w.toNat >>> (n - 1 - j)) % 2 ^ (j + 1 - i)

/-- Kazwick bit `i` of `w`. -/
def kbit {n : Nat} (w : BitVec n) (i : Nat) : Bool := w.getMsbD i

/-- `w` with bits `i` to `j` replaced by the low bits of `v`. -/
def setFld {n : Nat} (w : BitVec n) (i j v : Nat) : BitVec n :=
  let sh := n - 1 - j
  let m := 2 ^ (j + 1 - i)
  BitVec.ofNat n (w.toNat - (((w.toNat >>> sh) % m) <<< sh) + ((v % m) <<< sh))

/-- `w` with bit `i` set to `b`. -/
def setBit {n : Nat} (w : BitVec n) (i : Nat) (b : Bool) : BitVec n := setFld w i i b.toNat

/-- A word built from its fields (last bit, value). -/
def mkw (n : Nat) (fs : List (Nat × Nat)) : BitVec n :=
  BitVec.ofNat n (fs.foldl (fun acc f => acc + (f.2 <<< (n - 1 - f.1))) 0)

/-- A host-side register value from its fields (lowest host bit, value). -/
def mkh (fs : List (Nat × Nat)) : Nat := fs.foldl (fun acc f => acc + (f.2 <<< f.1)) 0

/-- Host bits [hi:lo] of a value. -/
def hfld (v hi lo : Nat) : Nat := (v >>> lo) % 2 ^ (hi + 1 - lo)

/-- Word 0 and word 1 of a double-word. -/
def dw0 (d : DWord) : Word := d.extractLsb' 36 36
def dw1 (d : DWord) : Word := d.extractLsb' 0 36
def mkd (a b : Word) : DWord := a ++ b

/-- A number that saturates (R12 counters). -/
def sat (mx n : Nat) : Nat := if n ≤ mx then n else mx

/-- 2^36 and 2^72, the moduli of words and double-words. -/
def w36 : Nat := 0x1000000000
def w72 : Nat := 0x1000000000000000000

/-! ## Syllables of a unit -/

def octet (x : Syl) : Octet := x.extractLsb' 0 8
def mark (x : Syl) : Bool := kbit x 0
def mkSyl (m : Bool) (o : Octet) : Syl := BitVec.ofBool m ++ o
/-- The syllable `x` with its octet replaced and its mark kept (R59, R212). -/
def withOctet (x : Syl) (o : Octet) : Syl := mkSyl (mark x) o

/-- The `n` syllables of an `n`-syllable number, syllable 0 first and most significant. -/
def sylsOf : Nat → Nat → List Syl
  | 0, _ => []
  | n + 1, v => sylsOf n (v / 512) ++ [BitVec.ofNat 9 (v % 512)]

def natOfSyls (l : List Syl) : Nat := l.foldl (fun acc x => acc * 512 + x.toNat) 0

def sylsW (w : Word) : List Syl := sylsOf 4 w.toNat
def sylsD (d : DWord) : List Syl := sylsOf 8 d.toNat
def wordOf (l : List Syl) : Word := BitVec.ofNat 36 (natOfSyls l)
def dwordOf (l : List Syl) : DWord := BitVec.ofNat 72 (natOfSyls l)

/-- `w` with the mark bits 0, 9, 18 and 27 cleared (CLRMK, LWN, R176) (DEDUCED, log 29). -/
def clearMarks (w : Word) : Word := w &&& 0o377377377377

/-- Two's-complement value. -/
def sgn {n : Nat} (w : BitVec n) : Int := w.toInt

/-! ## Sparse tables -/

def tfind {α : Type} : Tbl α → Nat → Option α
  | [], _ => none
  | (i, a) :: t, k => if i = k then some a else tfind t k

def tget {α : Type} (d : α) (t : Tbl α) (k : Nat) : α := (tfind t k).getD d

def tset {α : Type} : Tbl α → Nat → α → Tbl α
  | [], k, a => [(k, a)]
  | (i, b) :: t, k, a =>
    if k < i then (k, a) :: (i, b) :: t else if k = i then (k, a) :: t else (i, b) :: tset t k a

def terase {α : Type} : Tbl α → Nat → Tbl α
  | [], _ => []
  | (i, b) :: t, k => if k < i then (i, b) :: t else if k = i then t else (i, b) :: terase t k

/-! ## Memory: syllables that are not zero, addresses rising -/

/-- What an address reads as; an unlisted one reads as a zero syllable with a clear mark (02, 13 R439)
(DESIGN CHOICE, log 5). -/
def mget (m : Tbl Syl) (a : Nat) : Syl := tget 0 m a

/-- A write of one syllable that keeps the canonical form (DESIGN CHOICE, log 5). -/
def mset (m : Tbl Syl) (a : Nat) (v : Syl) : Tbl Syl := if v = 0 then terase m a else tset m a v

/-- Keys strictly rising, all above `lo`. -/
def risingFrom {α : Type} : Nat → Tbl α → Bool
  | _, [] => true
  | lo, (i, _) :: t => lo ≤ i && risingFrom (i + 1) t

/-- The canonical form of the memory (DESIGN CHOICE, log 5). -/
def Memory.wf (m : Tbl Syl) : Bool := risingFrom 0 m && m.all (fun c => c.2 != 0)

def mgets (m : Tbl Syl) (a : Nat) : Nat → List Syl
  | 0 => []
  | n + 1 => mget m a :: mgets m (a + 1) n

def msets (m : Tbl Syl) : Nat → List Syl → Tbl Syl
  | _, [] => m
  | a, x :: l => msets (mset m a x) (a + 1) l

/-- The first element of a list of numbers for which `p` holds, tried in the order 0, 1, … below `n`. -/
def findFrom (p : Nat → Bool) : Nat → Nat → Option Nat
  | 0, _ => none
  | f + 1, i => if p i then some i else findFrom p f (i + 1)

def firstBelow (n : Nat) (p : Nat → Bool) : Option Nat := findFrom p n 0

/-- Insertion of a number into a rising list without repeats. -/
def ninsert : List Nat → Nat → List Nat
  | [], k => [k]
  | i :: t, k => if k < i then k :: i :: t else if k = i then i :: t else i :: ninsert t k

def nerase (l : List Nat) (k : Nat) : List Nat := l.filter (· != k)

/-- Number of significant bits, at least `lo`. -/
def bitLen : Nat → Nat → Nat
  | 0, _ => 0
  | f + 1, v => if v = 0 then 0 else 1 + bitLen f (v / 2)

/-! ## CRC-32C (R547, R599) -/

def crcBit (c : BitVec 32) : BitVec 32 := if c.getLsbD 0 then (c >>> 1) ^^^ 0x82F63B78 else c >>> 1
def crcOctet (c : BitVec 32) (o : BitVec 8) : BitVec 32 :=
  let c := c ^^^ o.setWidth 32
  crcBit (crcBit (crcBit (crcBit (crcBit (crcBit (crcBit (crcBit c)))))))
/-- A syllable enters as its mark octet and its octet. -/
def crcSyl (c : BitVec 32) (x : Syl) : BitVec 32 := crcOctet (crcOctet c (if mark x then 1 else 0)) (octet x)
def crc32c (l : List Syl) : BitVec 32 := ~~~(l.foldl crcSyl 0xFFFFFFFF)
def crcOctets (l : List (BitVec 8)) : BitVec 32 := ~~~(l.foldl crcOctet 0xFFFFFFFF)

end Sys2Proof.Machine
end

