-- ==== Sys2Proof/Machine/Encoding.lean ====
section
/-! DEFINITION. The words of the instructions (04): the decoder of a short parcel and of a long instruction, which refuses
every reserved value and every nonzero field that must be zero (R151 row 2), and the encoder that it undoes. Operand
checks that depend on more than the function fields (an odd pair, a reserved float register or length) are made by the
meanings. The spec gives SAVEU and SAVEL no words. -/

namespace Sys2Proof.Machine

/-! ## Fields (R118, R122) -/

/-- The register field whose first bit is `i`. -/
def regAt {n : Nat} (w : BitVec n) (i : Nat) : Reg := Fin.ofNat 32 (fld w i (i + 4))

/-- The `m` bits from bit `i` on. -/
def immAt {n : Nat} (m : Nat) (w : BitVec n) (i : Nat) : BitVec m := BitVec.ofNat m (fld w i (i + m - 1))

/-- `i` when `c` holds: a field that must be zero, or a value below its bound. -/
def only (c : Bool) (i : Instr) : Option Instr := if c then some i else none

/-- A parcel that begins a long instruction (R115). -/
def isLong (p : Half) : Bool := kbit p 0 && kbit p 1

/-! ## Short instructions (R118-R121) -/

/-- The register group: opcode 0b0000. MOV with both fields zero is the zero parcel of R121. -/
def decodeSrr (a : Issue) (p : Half) : Option Instr :=
  let rd := regAt p 8
  let rs := regAt p 13
  match fld p 4 7 with
  | 0 => only (p != 0) (.mov a rd rs)
  | 1 => some (.add a (.short rd rs))
  | 2 => some (.sub a (.short rd rs))
  | 3 => some (.and a (.short rd rs))
  | 4 => some (.or a (.short rd rs))
  | 5 => some (.xor a (.short rd rs))
  | 6 => some (.shl a (.short rd rs))
  | 7 => some (.shr a (.short rd rs))
  | 8 => some (.sar a (.short rd rs))
  | 9 => some (.neg a rd rs)
  | 10 => some (.not a rd rs)
  | 11 => some (.clrmk a rd rs)
  | 12 => some (.slt a (.short rd rs))
  | 13 => some (.sltu a (.short rd rs))
  | _ => none

/-- The register-pair group: opcode 0b0001. -/
def decodePairs (a : Issue) (p : Half) : Option Instr :=
  match fld p 4 7 with
  | 0 => some (.movd a (regAt p 8) (regAt p 13))
  | 1 => some (.daddr a (regAt p 8) (regAt p 13))
  | 2 => some (.dsubr a (regAt p 8) (regAt p 13))
  | _ => none

/-- The system group: opcode 0b1010; bits 8-17 must be zero. -/
def decodeSsys (a : Issue) (p : Half) : Option Instr :=
  if fld p 8 17 != 0 then none
  else match fld p 4 7 with
    | 0 => some (.ret a)
    | 1 => some (.mvs a false)
    | 2 => some (.mvf a false)
    | 3 => some (.trs a false)
    | 4 => some (.scn a false)
    | 5 => some (.fence a false)
    | 6 => some (.wait a false)
    | _ => none

/-- A short parcel by its opcode (R119). -/
def decodeShort (a : Issue) (p : Half) : Option Instr :=
  match fld p 0 3 with
  | 0 => decodeSrr a p
  | 1 => decodePairs a p
  | 2 => some (.addis a (regAt p 4) (immAt 9 p 9))
  | 3 => some (.lis a (regAt p 4) (immAt 9 p 9))
  | 4 => some (.lws a (regAt p 4) (regAt p 9) (immAt 4 p 14))
  | 5 => some (.sws a (regAt p 4) (regAt p 9) (immAt 4 p 14))
  | 6 => some (.beqz a (regAt p 4) (immAt 9 p 9))
  | 7 => some (.bnez a (regAt p 4) (immAt 9 p 9))
  | 8 => some (.bltz a (regAt p 4) (immAt 9 p 9))
  | 9 => some (.bgez a (regAt p 4) (immAt 9 p 9))
  | 10 => decodeSsys a p
  | 11 => some (.brs a (immAt 14 p 4))
  | _ => none

/-! ## Long instructions (R122-R131) -/

/-- IOP and, when `d`, IOPD (R154, R155). -/
def decodeIop (a : Issue) (d : Bool) (w : Word) : Option Instr :=
  let rd := regAt w 8
  let ra := regAt w 13
  let rb := regAt w 18
  let fn := fld w 23 35
  let f : AluForm := if d then .iopd rd ra rb else .iop rd ra rb
  let one := rb == 0
  let n := immAt 7 w 29
  let inW := one && fn % 128 < (if d then 72 else 36)
  match fn with
  | 0 => some (.add a f)
  | 1 => some (.sub a f)
  | 2 => some (.addv a d rd ra rb)
  | 3 => some (.subv a d rd ra rb)
  | 4 => some (.and a f)
  | 5 => some (.or a f)
  | 6 => some (.xor a f)
  | 7 => some (.andn a d rd ra rb)
  | 8 => some (.shl a f)
  | 9 => some (.shr a f)
  | 10 => some (.sar a f)
  | 11 => some (.rol a d rd ra rb)
  | 12 => some (.slt a f)
  | 13 => some (.sltu a f)
  | 14 => some (.min a d rd ra rb)
  | 15 => some (.max a d rd ra rb)
  | 16 => some (.minu a d rd ra rb)
  | 17 => some (.maxu a d rd ra rb)
  | 18 => only (!d && one) (.clz a rd ra)
  | 19 => only one (.negv a d rd ra)
  | _ => match fn / 128 with
    | 1 => only inW (.shli a d rd ra n)
    | 2 => only inW (.shri a d rd ra n)
    | 3 => only inW (.sari a d rd ra n)
    | _ => none

/-- IMD (R157). -/
def decodeImd (a : Issue) (w : Word) : Option Instr :=
  let rd := regAt w 8
  let ra := regAt w 13
  let rb := regAt w 18
  match fld w 23 35 with
  | 0 => some (.mul a rd ra rb)
  | 1 => some (.mulh a rd ra rb)
  | 2 => some (.mulhu a rd ra rb)
  | 3 => some (.mulw a rd ra rb)
  | 4 => some (.mulwu a rd ra rb)
  | 5 => some (.div a rd ra rb)
  | 6 => some (.divu a rd ra rb)
  | 7 => some (.rem a rd ra rb)
  | 8 => some (.remu a rd ra rb)
  | 9 => some (.divrem a rd ra rb)
  | 10 => some (.divremu a rd ra rb)
  | 16 => some (.muld a rd ra rb)
  | 17 => some (.divd a rd ra rb)
  | 18 => some (.divdu a rd ra rb)
  | 19 => some (.remd a rd ra rb)
  | 20 => some (.remdu a rd ra rb)
  | _ => none

/-- FOPS and, when `lg`, FOPL (R168). -/
def decodeFop (a : Issue) (lg : Bool) (w : Word) : Option Instr :=
  let rd := regAt w 8
  let ra := regAt w 13
  let rb := regAt w 18
  let one := rb == 0
  match fld w 23 35 with
  | 0 => some (.fadd a lg rd ra rb)
  | 1 => some (.fsub a lg rd ra rb)
  | 2 => some (.fmul a lg rd ra rb)
  | 3 => some (.fdiv a lg rd ra rb)
  | 4 => only one (.fsqrt a lg rd ra)
  | 5 => some (.fmin a lg rd ra rb)
  | 6 => some (.fmax a lg rd ra rb)
  | 7 => only one (.fabs a lg rd ra)
  | 8 => only one (.fneg a lg rd ra)
  | 9 => only one (.fmov a lg rd ra)
  | 10 => some (.fcmp a lg rd ra rb)
  | 11 => some (.fcmps a lg rd ra rb)
  | 12 => only one (.frint a lg rd ra)
  | _ => none

/-- FCVT; rb must be zero (R169). -/
def decodeFcvt (a : Issue) (w : Word) : Option Instr :=
  let rd := regAt w 8
  let ra := regAt w 13
  if regAt w 18 != 0 then none
  else match fld w 23 35 with
    | 0 => some (.fcvtsl a rd ra)
    | 1 => some (.fcvtls a rd ra)
    | 2 => some (.fcvtws a rd ra)
    | 3 => some (.fcvtwl a rd ra)
    | 4 => some (.fcvtdl a rd ra)
    | 5 => some (.fcvtsw a rd ra)
    | 6 => some (.fcvtswz a rd ra)
    | 7 => some (.fcvtlw a rd ra)
    | 8 => some (.fcvtlwz a rd ra)
    | 9 => some (.fcvtld a rd ra)
    | 10 => some (.fcvtldz a rd ra)
    | 11 => some (.f64tol a rd ra)
    | 12 => some (.ltof64 a rd ra)
    | 13 => some (.mvgs a rd ra)
    | 14 => some (.mvsg a rd ra)
    | 15 => some (.mvgl a rd ra)
    | 16 => some (.mvlg a rd ra)
    | _ => none

/-- JMP (R137). -/
def decodeJmp (a : Issue) (w : Word) : Option Instr :=
  let free := regAt w 8 == 0 && regAt w 18 == 0
  match fld w 23 35 with
  | 0 => only free (.jr a (regAt w 13))
  | 1 => only free (.callr a (regAt w 13))
  | _ => none

/-- CTL (R129). -/
def decodeCtl (a : Issue) (w : Word) : Option Instr :=
  let r := regAt w 8
  let n := immAt 9 w 27
  if fld w 15 26 != 0 then none
  else match fld w 13 14 with
    | 0 => some (.getc a r n)
    | 1 => some (.putc a r n)
    | 2 => some (.getc2 a r n)
    | _ => some (.putc2 a r n)

/-- SYS; the fields that a row does not name must be zero (R130). -/
def decodeSys (a : Issue) (w : Word) : Option Instr :=
  let ra := regAt w 14
  let rb := regAt w 19
  let imm := immAt 12 w 24
  let noR := ra == 0 && rb == 0
  let none' := noR && imm == 0
  match fld w 8 13 with
  | 0o00 => only noR (.svc a imm)
  | 0o01 => only none' (.xret a)
  | 0o02 => only noR (.shield a imm)
  | 0o03 => only none' (.rsflush a)
  | 0o04 => only none' (.fence a true)
  | 0o05 => only none' (.wait a true)
  | 0o06 => only (rb == 0 && imm == 0) (.iva a ra)
  | 0o07 => only (rb == 0 && imm == 0) (.ivp a ra)
  | 0o10 => only none' (.ivall a)
  | 0o11 => only none' (.ivsync a)
  | 0o12 => only (imm == 0) (.skset a ra rb)
  | 0o13 => only (imm == 0) (.skget a ra rb)
  | _ => none

/-- DOP (R184). -/
def decodeDop (a : Issue) (w : Word) : Option Instr :=
  let ra := regAt w 8
  let rb := regAt w 13
  let la := immAt 6 w 18
  let lb := immAt 6 w 24
  match fld w 30 35 with
  | 0 => some (.dadd a ra rb la lb)
  | 1 => some (.dsub a ra rb la lb)
  | 2 => some (.dzap a ra rb la lb)
  | 3 => some (.dcmp a ra rb la lb)
  | 4 => some (.dmul a ra rb la lb)
  | 5 => some (.dmulr a ra rb la lb)
  | 6 => some (.ddiv a ra rb la lb)
  | 7 => some (.ddivr a ra rb la lb)
  | 8 => some (.drem a ra rb la lb)
  | 9 => only (rb == 0 && lb == 0) (.dtst a ra la)
  | _ => none

/-- DCV (R185). -/
def decodeDcv (a : Issue) (w : Word) : Option Instr :=
  let ra := regAt w 8
  let rb := regAt w 13
  let la := immAt 6 w 18
  let lb := immAt 6 w 24
  match fld w 30 35 with
  | 0 => some (.pack a ra rb la lb)
  | 1 => some (.unpk a ra rb la lb)
  | 2 => some (.unpku a ra rb la lb)
  | 3 => only (lb == 0) (.dsr a ra rb la)
  | 4 => only (lb == 0) (.cvpb a ra rb la)
  | 5 => only (lb == 0) (.cvbp a ra rb la)
  | 6 => only (rb == 0 && lb == 0) (.dlda a ra la)
  | 7 => only (rb == 0 && lb == 0) (.dsta a ra la)
  | 8 => only (ra == 0 && la == 0 && rb == 0 && lb == 0) (.dclra a)
  | _ => none

/-- STR (R131). -/
def decodeStr (a : Issue) (w : Word) : Option Instr :=
  let p := immAt 4 w 12
  let d := kbit w 16
  let plain := p == 0 && !d
  if fld w 17 35 != 0 then none
  else match fld w 8 11 with
    | 0 => only plain (.mvs a true)
    | 1 => only plain (.mvf a true)
    | 2 => only plain (.trs a true)
    | 3 => only plain (.scn a true)
    | 4 => some (.cnv a p d)
    | 5 => only (!d) (.edit a p)
    | _ => none

/-- CP0, CP1, CP2 and the remote slots CP4 to CP7; CP3 is reserved (R147, R148, R239, R248, R354). -/
def decodeCp (a : Issue) (w : Word) : Option Instr :=
  let rd := regAt w 8
  let ra := regAt w 13
  let rb := regAt w 18
  match fld w 5 7, fld w 23 35 with
  | 0, 0 => only (rd == 0 && rb == 0) (.post a ra)
  | 0, 1 => only (rd == 0 && rb == 0) (.prep a ra)
  | 0, 2 => only (rd == 0 && rb == 0) (.commit a ra)
  | 0, 3 => only (rd == 0 && rb == 0) (.abort a ra)
  | 0, 4 => only (rb == 0) (.pstat a rd ra)
  | 0, 5 => only (ra == 0 && rb == 0) (.getseq a rd)
  | 0, 6 => only (ra == 0 && rb == 0) (.getjh a rd)
  | 0, 8 => only (rb == 0) (.slacq a rd ra)
  | 0, 9 => only (rb == 0) (.slrel a rd ra)
  | 1, 0 => some (.shinit a rd ra rb)
  | 1, 1 => some (.shstep a rd ra rb)
  | 1, 2 => some (.shfin a rd ra rb)
  | 1, 3 => some (.ginit a rd ra rb)
  | 1, 4 => some (.gaad a rd ra rb)
  | 1, 5 => some (.genc a rd ra rb)
  | 1, 6 => some (.gdec a rd ra rb)
  | 1, 7 => some (.gfin a rd ra rb)
  | 2, 0 => only (ra == 0) (.cpq a rd rb)
  | 2, 1 => some (.cptou a rd ra rb)
  | 2, 2 => some (.cpfromu a rd ra rb)
  | 4, _ => some (.cpRemote a 0 rd ra rb (immAt 13 w 23))
  | 5, _ => some (.cpRemote a 1 rd ra rb (immAt 13 w 23))
  | 6, _ => some (.cpRemote a 2 rd ra rb (immAt 13 w 23))
  | 7, _ => some (.cpRemote a 3 rd ra rb (immAt 13 w 23))
  | _, _ => none

/-- A long instruction by its major opcode (R123). -/
def decodeLong (a : Issue) (w : Word) : Option Instr :=
  let r1 := regAt w 8
  let r2 := regAt w 13
  let i18 := immAt 18 w 18
  let i5 := immAt 5 w 13
  match fld w 2 7 with
  | 0o01 => decodeIop a false w
  | 0o02 => decodeIop a true w
  | 0o03 => decodeImd a w
  | 0o04 => some (.addi a r1 r2 i18)
  | 0o05 => some (.andi a r1 r2 i18)
  | 0o06 => some (.ori a r1 r2 i18)
  | 0o07 => some (.xori a r1 r2 i18)
  | 0o10 => only (r2 == 0) (.lih a r1 i18)
  | 0o11 => some (.slti a r1 r2 i18)
  | 0o12 => some (.sltiu a r1 r2 i18)
  | 0o14 => some (.lh a r1 r2 i18)
  | 0o15 => some (.lw a r1 r2 i18)
  | 0o16 => some (.ldw a r1 r2 i18)
  | 0o17 => some (.lsy a r1 r2 i18)
  | 0o20 => some (.loc a r1 r2 i18)
  | 0o21 => some (.lwn a r1 r2 i18)
  | 0o22 => some (.sh a r1 r2 i18)
  | 0o23 => some (.sw a r1 r2 i18)
  | 0o24 => some (.sdw a r1 r2 i18)
  | 0o25 => some (.ssy a r1 r2 i18)
  | 0o27 => only (r1 == 0 && fld w 23 32 == 0) (.mac2 a r2 (regAt w 18) (kbit w 33) (kbit w 34) (kbit w 35))
  | 0o30 => decodeFop a false w
  | 0o31 => decodeFop a true w
  | 0o32 => decodeFcvt a w
  | 0o33 => some (.fld a r1 r2 i18)
  | 0o34 => some (.fst a r1 r2 i18)
  | 0o40 => some (.beq a r1 r2 i18)
  | 0o41 => some (.bne a r1 r2 i18)
  | 0o42 => some (.blt a r1 r2 i18)
  | 0o43 => some (.bge a r1 r2 i18)
  | 0o44 => some (.bltu a r1 r2 i18)
  | 0o45 => some (.bgeu a r1 r2 i18)
  | 0o46 => some (.beqi a r1 i5 i18)
  | 0o47 => some (.bnei a r1 i5 i18)
  | 0o50 => some (.blti a r1 i5 i18)
  | 0o51 => some (.bgei a r1 i5 i18)
  | 0o52 => some (.br a (immAt 28 w 8))
  | 0o53 => some (.call a (immAt 28 w 8))
  | 0o54 => decodeJmp a w
  | 0o55 => only (fld w 19 35 == 0) (.loop a r1 (immAt 6 w 13))
  | 0o56 => decodeCtl a w
  | 0o57 => decodeSys a w
  | 0o60 => decodeDop a w
  | 0o61 => decodeDcv a w
  | 0o62 => only (fld w 30 33 == 0) (.dmac a r1 r2 (immAt 6 w 18) (immAt 6 w 24) (kbit w 34) (kbit w 35))
  | 0o63 => decodeStr a w
  | 0o70 => decodeCp a w
  | 0o71 => decodeCp a w
  | 0o72 => decodeCp a w
  | 0o74 => decodeCp a w
  | 0o75 => decodeCp a w
  | 0o76 => decodeCp a w
  | 0o77 => decodeCp a w
  | _ => none

/-- The first parcel of a word. -/
def parcel0 (w : Word) : Half := w.extractLsb' 18 18

/-- The instruction whose first parcel is the first half of `w`; a short one does not look at the second half
(R115, R116). -/
def decodeWord (a : Issue) (w : Word) : Option Instr :=
  if isLong (parcel0 w) then decodeLong a w else decodeShort a (parcel0 w)

/-! ## The encoder -/

/-- A short instruction from its opcode and its fields (last bit, value); the second half is zero. -/
def shortWord (op : Nat) (fs : List (Nat × Nat)) : Option (Nat × Word) := some (2, mkw 36 ((3, op) :: fs))

/-- A long instruction from its major and its fields. -/
def longWord (major : Nat) (fs : List (Nat × Nat)) : Option (Nat × Word) :=
  some (4, mkw 36 ((1, 3) :: (7, major) :: fs))

def srrWord (op sub : Nat) (rd rs : Reg) : Option (Nat × Word) := shortWord op [(7, sub), (12, rd), (17, rs)]
def rrrWord (major : Nat) (rd ra rb : Reg) (fn : Nat) : Option (Nat × Word) :=
  longWord major [(12, rd), (17, ra), (22, rb), (35, fn)]
/-- The layout that RRI, MEM and CB share. -/
def r18Word (major : Nat) (r1 r2 : Nat) (imm : BitVec 18) : Option (Nat × Word) :=
  longWord major [(12, r1), (17, r2), (35, imm.toNat)]
def decWord (major : Nat) (ra rb : Reg) (la lb : BitVec 6) (fn : Nat) : Option (Nat × Word) :=
  longWord major [(12, ra), (17, rb), (23, la.toNat), (29, lb.toNat), (35, fn)]
def sysWord (sub : Nat) (ra rb : Reg) (imm : BitVec 12) : Option (Nat × Word) :=
  longWord 0o57 [(13, sub), (18, ra), (23, rb), (35, imm.toNat)]
def strWord (fn : Nat) (p : BitVec 4) (d : Bool) : Option (Nat × Word) :=
  longWord 0o63 [(11, fn), (15, p.toNat), (16, d.toNat)]
def ctWord (op : Nat) (r : Reg) (num : BitVec 9) : Option (Nat × Word) :=
  longWord 0o56 [(12, r), (14, op), (35, num.toNat)]
/-- An arithmetic form: the short sub, and the fn of IOP and IOPD. -/
def aluWord (sub fn : Nat) : AluForm → Option (Nat × Word)
  | .short rd rs => srrWord 0 sub rd rs
  | .iop rd ra rb => rrrWord 0o01 rd ra rb fn
  | .iopd rd ra rb => rrrWord 0o02 rd ra rb fn
def iopWord (d : Bool) (rd ra rb : Reg) (fn : Nat) : Option (Nat × Word) := rrrWord (if d then 0o02 else 0o01) rd ra rb fn
def fopWord (lg : Bool) (rd ra rb : Reg) (fn : Nat) : Option (Nat × Word) := rrrWord (if lg then 0o31 else 0o30) rd ra rb fn

/-- The length and the word of an instruction; none for a command that is no instruction, and for SAVEU and SAVEL. -/
def encodeWord : Instr → Option (Nat × Word)
  | .mov _ rd rs => srrWord 0 0 rd rs
  | .add _ f => aluWord 1 0 f
  | .sub _ f => aluWord 2 1 f
  | .and _ f => aluWord 3 4 f
  | .or _ f => aluWord 4 5 f
  | .xor _ f => aluWord 5 6 f
  | .andn _ d rd ra rb => iopWord d rd ra rb 7
  | .shl _ f => aluWord 6 8 f
  | .shr _ f => aluWord 7 9 f
  | .sar _ f => aluWord 8 10 f
  | .rol _ d rd ra rb => iopWord d rd ra rb 11
  | .shli _ d rd ra n => iopWord d rd ra 0 (0o200 + n.toNat)
  | .shri _ d rd ra n => iopWord d rd ra 0 (0o400 + n.toNat)
  | .sari _ d rd ra n => iopWord d rd ra 0 (0o600 + n.toNat)
  | .neg _ rd rs => srrWord 0 9 rd rs
  | .not _ rd rs => srrWord 0 10 rd rs
  | .clrmk _ rd rs => srrWord 0 11 rd rs
  | .slt _ f => aluWord 12 12 f
  | .sltu _ f => aluWord 13 13 f
  | .addv _ d rd ra rb => iopWord d rd ra rb 2
  | .subv _ d rd ra rb => iopWord d rd ra rb 3
  | .negv _ d rd ra => iopWord d rd ra 0 19
  | .min _ d rd ra rb => iopWord d rd ra rb 14
  | .max _ d rd ra rb => iopWord d rd ra rb 15
  | .minu _ d rd ra rb => iopWord d rd ra rb 16
  | .maxu _ d rd ra rb => iopWord d rd ra rb 17
  | .clz _ rd ra => iopWord false rd ra 0 18
  | .movd _ rd rs => srrWord 1 0 rd rs
  | .daddr _ rd rs => srrWord 1 1 rd rs
  | .dsubr _ rd rs => srrWord 1 2 rd rs
  | .addis _ rd imm => shortWord 2 [(8, rd), (17, imm.toNat)]
  | .lis _ rd imm => shortWord 3 [(8, rd), (17, imm.toNat)]
  | .addi _ rd ra imm => r18Word 0o04 rd ra imm
  | .andi _ rd ra imm => r18Word 0o05 rd ra imm
  | .ori _ rd ra imm => r18Word 0o06 rd ra imm
  | .xori _ rd ra imm => r18Word 0o07 rd ra imm
  | .lih _ rd imm => r18Word 0o10 rd 0 imm
  | .slti _ rd ra imm => r18Word 0o11 rd ra imm
  | .sltiu _ rd ra imm => r18Word 0o12 rd ra imm
  | .lws _ rd rb d => shortWord 4 [(8, rd), (13, rb), (17, d.toNat)]
  | .sws _ rd rb d => shortWord 5 [(8, rd), (13, rb), (17, d.toNat)]
  | .lh _ rd rb d => r18Word 0o14 rd rb d
  | .lw _ rd rb d => r18Word 0o15 rd rb d
  | .ldw _ rd rb d => r18Word 0o16 rd rb d
  | .lsy _ rd rb d => r18Word 0o17 rd rb d
  | .loc _ rd rb d => r18Word 0o20 rd rb d
  | .lwn _ rd rb d => r18Word 0o21 rd rb d
  | .sh _ rd rb d => r18Word 0o22 rd rb d
  | .sw _ rd rb d => r18Word 0o23 rd rb d
  | .sdw _ rd rb d => r18Word 0o24 rd rb d
  | .ssy _ rd rb d => r18Word 0o25 rd rb d
  | .beqz _ ra off => shortWord 6 [(8, ra), (17, off.toNat)]
  | .bnez _ ra off => shortWord 7 [(8, ra), (17, off.toNat)]
  | .bltz _ ra off => shortWord 8 [(8, ra), (17, off.toNat)]
  | .bgez _ ra off => shortWord 9 [(8, ra), (17, off.toNat)]
  | .brs _ off => shortWord 11 [(17, off.toNat)]
  | .beq _ ra rb off => r18Word 0o40 ra rb off
  | .bne _ ra rb off => r18Word 0o41 ra rb off
  | .blt _ ra rb off => r18Word 0o42 ra rb off
  | .bge _ ra rb off => r18Word 0o43 ra rb off
  | .bltu _ ra rb off => r18Word 0o44 ra rb off
  | .bgeu _ ra rb off => r18Word 0o45 ra rb off
  | .beqi _ ra imm off => r18Word 0o46 ra imm.toNat off
  | .bnei _ ra imm off => r18Word 0o47 ra imm.toNat off
  | .blti _ ra imm off => r18Word 0o50 ra imm.toNat off
  | .bgei _ ra imm off => r18Word 0o51 ra imm.toNat off
  | .br _ off => longWord 0o52 [(35, off.toNat)]
  | .call _ off => longWord 0o53 [(35, off.toNat)]
  | .jr _ ra => rrrWord 0o54 0 ra 0 0
  | .callr _ ra => rrrWord 0o54 0 ra 0 1
  | .ret _ => shortWord 10 [(7, 0)]
  | .loop _ c e => longWord 0o55 [(12, c), (18, e.toNat)]
  | .getc _ r num => ctWord 0 r num
  | .putc _ r num => ctWord 1 r num
  | .getc2 _ r num => ctWord 2 r num
  | .putc2 _ r num => ctWord 3 r num
  | .svc _ imm => sysWord 0o00 0 0 imm
  | .xret _ => sysWord 0o01 0 0 0
  | .shield _ imm => sysWord 0o02 0 0 imm
  | .rsflush _ => sysWord 0o03 0 0 0
  | .fence _ lf => if lf then sysWord 0o04 0 0 0 else shortWord 10 [(7, 5)]
  | .wait _ lf => if lf then sysWord 0o05 0 0 0 else shortWord 10 [(7, 6)]
  | .iva _ ra => sysWord 0o06 ra 0 0
  | .ivp _ ra => sysWord 0o07 ra 0 0
  | .ivall _ => sysWord 0o10 0 0 0
  | .ivsync _ => sysWord 0o11 0 0 0
  | .skset _ ra rb => sysWord 0o12 ra rb 0
  | .skget _ ra rb => sysWord 0o13 ra rb 0
  | .mul _ rd ra rb => rrrWord 0o03 rd ra rb 0
  | .mulh _ rd ra rb => rrrWord 0o03 rd ra rb 1
  | .mulhu _ rd ra rb => rrrWord 0o03 rd ra rb 2
  | .mulw _ rd ra rb => rrrWord 0o03 rd ra rb 3
  | .mulwu _ rd ra rb => rrrWord 0o03 rd ra rb 4
  | .muld _ rd ra rb => rrrWord 0o03 rd ra rb 16
  | .div _ rd ra rb => rrrWord 0o03 rd ra rb 5
  | .divu _ rd ra rb => rrrWord 0o03 rd ra rb 6
  | .rem _ rd ra rb => rrrWord 0o03 rd ra rb 7
  | .remu _ rd ra rb => rrrWord 0o03 rd ra rb 8
  | .divrem _ rd ra rb => rrrWord 0o03 rd ra rb 9
  | .divremu _ rd ra rb => rrrWord 0o03 rd ra rb 10
  | .divd _ rd ra rb => rrrWord 0o03 rd ra rb 17
  | .divdu _ rd ra rb => rrrWord 0o03 rd ra rb 18
  | .remd _ rd ra rb => rrrWord 0o03 rd ra rb 19
  | .remdu _ rd ra rb => rrrWord 0o03 rd ra rb 20
  | .mac2 _ ra rb s m i => longWord 0o27 [(17, ra), (22, rb), (33, s.toNat), (34, m.toNat), (35, i.toNat)]
  | .fld _ rd rb d => r18Word 0o33 rd rb d
  | .fst _ rd rb d => r18Word 0o34 rd rb d
  | .fadd _ lg rd ra rb => fopWord lg rd ra rb 0
  | .fsub _ lg rd ra rb => fopWord lg rd ra rb 1
  | .fmul _ lg rd ra rb => fopWord lg rd ra rb 2
  | .fdiv _ lg rd ra rb => fopWord lg rd ra rb 3
  | .fsqrt _ lg rd ra => fopWord lg rd ra 0 4
  | .fmin _ lg rd ra rb => fopWord lg rd ra rb 5
  | .fmax _ lg rd ra rb => fopWord lg rd ra rb 6
  | .fabs _ lg rd ra => fopWord lg rd ra 0 7
  | .fneg _ lg rd ra => fopWord lg rd ra 0 8
  | .fmov _ lg rd ra => fopWord lg rd ra 0 9
  | .fcmp _ lg rd ra rb => fopWord lg rd ra rb 10
  | .fcmps _ lg rd ra rb => fopWord lg rd ra rb 11
  | .frint _ lg rd ra => fopWord lg rd ra 0 12
  | .fcvtsl _ rd ra => rrrWord 0o32 rd ra 0 0
  | .fcvtls _ rd ra => rrrWord 0o32 rd ra 0 1
  | .fcvtws _ rd ra => rrrWord 0o32 rd ra 0 2
  | .fcvtwl _ rd ra => rrrWord 0o32 rd ra 0 3
  | .fcvtdl _ rd ra => rrrWord 0o32 rd ra 0 4
  | .fcvtsw _ rd ra => rrrWord 0o32 rd ra 0 5
  | .fcvtswz _ rd ra => rrrWord 0o32 rd ra 0 6
  | .fcvtlw _ rd ra => rrrWord 0o32 rd ra 0 7
  | .fcvtlwz _ rd ra => rrrWord 0o32 rd ra 0 8
  | .fcvtld _ rd ra => rrrWord 0o32 rd ra 0 9
  | .fcvtldz _ rd ra => rrrWord 0o32 rd ra 0 10
  | .f64tol _ rd ra => rrrWord 0o32 rd ra 0 11
  | .ltof64 _ rd ra => rrrWord 0o32 rd ra 0 12
  | .mvgs _ rd ra => rrrWord 0o32 rd ra 0 13
  | .mvsg _ rd ra => rrrWord 0o32 rd ra 0 14
  | .mvgl _ rd ra => rrrWord 0o32 rd ra 0 15
  | .mvlg _ rd ra => rrrWord 0o32 rd ra 0 16
  | .dadd _ ra rb la lb => decWord 0o60 ra rb la lb 0
  | .dsub _ ra rb la lb => decWord 0o60 ra rb la lb 1
  | .dzap _ ra rb la lb => decWord 0o60 ra rb la lb 2
  | .dcmp _ ra rb la lb => decWord 0o60 ra rb la lb 3
  | .dmul _ ra rb la lb => decWord 0o60 ra rb la lb 4
  | .dmulr _ ra rb la lb => decWord 0o60 ra rb la lb 5
  | .ddiv _ ra rb la lb => decWord 0o60 ra rb la lb 6
  | .ddivr _ ra rb la lb => decWord 0o60 ra rb la lb 7
  | .drem _ ra rb la lb => decWord 0o60 ra rb la lb 8
  | .dtst _ ra la => decWord 0o60 ra 0 la 0 9
  | .pack _ ra rb la lb => decWord 0o61 ra rb la lb 0
  | .unpk _ ra rb la lb => decWord 0o61 ra rb la lb 1
  | .unpku _ ra rb la lb => decWord 0o61 ra rb la lb 2
  | .dsr _ ra rb la => decWord 0o61 ra rb la 0 3
  | .cvpb _ ra rb la => decWord 0o61 ra rb la 0 4
  | .cvbp _ ra rb la => decWord 0o61 ra rb la 0 5
  | .dlda _ ra la => decWord 0o61 ra 0 la 0 6
  | .dsta _ ra la => decWord 0o61 ra 0 la 0 7
  | .dclra _ => decWord 0o61 0 0 0 0 8
  | .dmac _ ra rb la lb neg inc => decWord 0o62 ra rb la lb (2 * neg.toNat + inc.toNat)
  | .mvs _ lf => if lf then strWord 0 0 false else shortWord 10 [(7, 1)]
  | .mvf _ lf => if lf then strWord 1 0 false else shortWord 10 [(7, 2)]
  | .trs _ lf => if lf then strWord 2 0 false else shortWord 10 [(7, 3)]
  | .scn _ lf => if lf then strWord 3 0 false else shortWord 10 [(7, 4)]
  | .cnv _ p d => strWord 4 p d
  | .edit _ p => strWord 5 p false
  | .cpq _ rd rb => rrrWord 0o72 rd 0 rb 0
  | .cptou _ rd ra rb => rrrWord 0o72 rd ra rb 1
  | .cpfromu _ rd ra rb => rrrWord 0o72 rd ra rb 2
  | .shinit _ rd ra rb => rrrWord 0o71 rd ra rb 0
  | .shstep _ rd ra rb => rrrWord 0o71 rd ra rb 1
  | .shfin _ rd ra rb => rrrWord 0o71 rd ra rb 2
  | .ginit _ rd ra rb => rrrWord 0o71 rd ra rb 3
  | .gaad _ rd ra rb => rrrWord 0o71 rd ra rb 4
  | .genc _ rd ra rb => rrrWord 0o71 rd ra rb 5
  | .gdec _ rd ra rb => rrrWord 0o71 rd ra rb 6
  | .gfin _ rd ra rb => rrrWord 0o71 rd ra rb 7
  | .cpRemote _ sl rd ra rb cfn => rrrWord (0o74 + sl) rd ra rb cfn.toNat
  | .post _ ra => rrrWord 0o70 0 ra 0 0
  | .prep _ ra => rrrWord 0o70 0 ra 0 1
  | .commit _ ra => rrrWord 0o70 0 ra 0 2
  | .abort _ ra => rrrWord 0o70 0 ra 0 3
  | .pstat _ rd ra => rrrWord 0o70 rd ra 0 4
  | .getseq _ rd => rrrWord 0o70 rd 0 0 5
  | .getjh _ rd => rrrWord 0o70 rd 0 0 6
  | .slacq _ rd ra => rrrWord 0o70 rd ra 0 8
  | .slrel _ rd ra => rrrWord 0o70 rd ra 0 9
  | _ => none

end Sys2Proof.Machine
end

