-- ==== Sys2Proof/Machine/Operands.lean ====
section
/-! DEFINITION. Operand forms: immediates and displacements (04 R127, R132, R133), shift counts (05 R155), and the
packed and zoned decimal forms (02 R60-R66, 06 R183). -/

namespace Sys2Proof.Machine

/-! ## Immediates and addresses -/

/-- Sign extension of an immediate field to a word. -/
def sext {n : Nat} (w : Nat) (i : BitVec n) : BitVec w := i.signExtend w
def zext {n : Nat} (w : Nat) (i : BitVec n) : BitVec w := i.setWidth w

/-- The unbounded sum of a base register and a displacement (R132). -/
def memAddr (g : Word) (d : Int) : Int := g.toNat + d

/-- The target of a PC-relative transfer: `pc` plus twice the offset (R133) (DEDUCED, log 10). -/
def relTarget {n : Nat} (pc : Word) (off : BitVec n) : Int := pc.toNat + 2 * off.toInt

/-- An address modulo 2^36, as FADDR reports it (R328) (DEDUCED, log 10). -/
def va36 (a : Int) : Nat := (a % w36).toNat

/-! ## Shifts (R155) -/

def shl {n : Nat} (a : BitVec n) (c : Nat) : BitVec n := a <<< c
def shr {n : Nat} (a : BitVec n) (c : Nat) : BitVec n := a >>> c
def sar {n : Nat} (a : BitVec n) (c : Nat) : BitVec n := a.sshiftRight c
def rol {n : Nat} (a : BitVec n) (c : Nat) : BitVec n := a.rotateLeft (c % n)

/-- Leading zero bits (CLZ). -/
def clz {n : Nat} (a : BitVec n) : Nat := n - bitLen n a.toNat

/-! ## Packed decimal -/

def hiNib (o : Octet) : Nat := o.toNat / 16
def loNib (o : Octet) : Nat := o.toNat % 16
def mkOctet (h l : Nat) : Octet := BitVec.ofNat 8 (h * 16 + l)

/-- Sign nibbles read as negative (R61). -/
def negSign (n : Nat) : Bool := n = 11 || n = 13

/-- The first syllable of a packed field with a bad nibble (R62); `i` counts syllables. -/
def packedBad : List Octet → Nat → Option Nat
  | [], _ => none
  | [o], i => if 10 ≤ hiNib o || loNib o < 10 then some i else none
  | o :: l, i => if 10 ≤ hiNib o || 10 ≤ loNib o then some i else packedBad l (i + 1)

/-- The digits of a packed field as a magnitude. -/
def packedMag : List Octet → Nat → Nat
  | [], m => m
  | [o], m => m * 10 + hiNib o
  | o :: l, m => packedMag l (m * 100 + hiNib o * 10 + loNib o)

def lastNib (l : List Octet) : Nat := (l.getLast?).elim 0 loNib

/-- The value of a valid packed field. -/
def packedVal (l : List Octet) : Int :=
  if negSign (lastNib l) then -(packedMag l 0 : Int) else packedMag l 0

/-- The low digits of `m` in `n` octets above a sign octet, most significant first. -/
def digitOctets : Nat → Nat → List Octet
  | 0, _ => []
  | n + 1, m => digitOctets n (m / 100) ++ [mkOctet (m / 10 % 10) (m % 10)]

/-- A packed field of `n` syllables: the low 2n-1 digits of `m`, with sign 0xD for a nonzero negative (R61, R63). -/
def packedOf (n m : Nat) (neg : Bool) : List Octet :=
  let d := m % 10 ^ (2 * n - 1)
  digitOctets (n - 1) (d / 10) ++ [mkOctet (d % 10) (if neg && d != 0 then 13 else 12)]

/-! ## Zoned decimal -/

def zonedBad : List Octet → Nat → Option Nat
  | [], _ => none
  | [o], i => if hiNib o < 10 || 10 ≤ loNib o then some i else none
  | o :: l, i => if 10 ≤ loNib o then some i else zonedBad l (i + 1)

def zonedMag (l : List Octet) : Nat := l.foldl (fun m o => m * 10 + loNib o) 0

def lastZone (l : List Octet) : Nat := (l.getLast?).elim 0 hiNib

def zonedVal (l : List Octet) : Int :=
  if negSign (lastZone l) then -(zonedMag l : Int) else zonedMag l

def zoneDigits : Nat → Nat → List Octet
  | 0, _ => []
  | n + 1, m => zoneDigits n (m / 10) ++ [mkOctet 15 (m % 10)]

/-- A zoned field of `n` syllables; `sign` is the last zone. -/
def zonedOf (n m sign : Nat) : List Octet :=
  zoneDigits (n - 1) (m / 10) ++ [mkOctet sign (m % 10)]

/-- Number of decimal digits from the first nonzero one, at least 1 (R180). -/
def sigDigitsF : Nat → Nat → Nat
  | 0, _ => 0
  | f + 1, m => if m = 0 then 0 else 1 + sigDigitsF f (m / 10)
def sigDigits (m : Nat) : Nat := let d := sigDigitsF 200 m; if d = 0 then 1 else d

/-! ## Packed pairs (R183) -/

/-- The octets of the 8 syllables of a pair. -/
def pairOctets (d : DWord) : List Octet := (sylsD d).map octet
/-- A pair with given octets and clear marks. -/
def pairOf (l : List Octet) : DWord := dwordOf (l.map (mkSyl false))

end Sys2Proof.Machine
end

