-- ==== Sys2Proof/Machine/Flags.lean ====
section
/-! DEFINITION. Every flag computation: integer overflow (05 R156), the carry-free compares, FSR (R167, R171), ACCV
(R176), and DRS (06 R194, R195, R190). -/

namespace Sys2Proof.Machine

/-! ## Integer overflow (R156) -/

/-- A signed result fits a word of `n` bits. -/
def fitsS (n : Nat) (v : Int) : Bool := decide (-(2 ^ (n - 1) : Int) ≤ v) && decide (v < (2 ^ (n - 1) : Int))

/-- An unsigned result fits a word of `n` bits. -/
def fitsU (n : Nat) (v : Int) : Bool := decide (0 ≤ v) && decide (v < (2 ^ n : Int))

/-! ## FSR (R167) -/

/-- IEEE flags of one operation, in the order of FSR bits 31-35: invalid, division by zero, overflow, underflow,
inexact. -/
structure FFlags where
  v : Bool := false
  z : Bool := false
  o : Bool := false
  u : Bool := false
  x : Bool := false
  deriving DecidableEq, Repr

def FFlags.bits (f : FFlags) : Nat :=
  f.v.toNat * 16 + f.z.toNat * 8 + f.o.toNat * 4 + f.u.toNat * 2 + f.x.toNat

/-- A signalled flag has its enable set (R171 step 3); the enables EV, EZ, EO, EU, EX are bits 26-30. -/
def fsrTraps (fsr : Word) (f : FFlags) : Bool := (fld fsr 26 30 &&& f.bits) != 0

/-- ORs the signalled flags into bits 31-35 (R171 step 5). -/
def fsrOr (fsr : Word) (f : FFlags) : Word := setFld fsr 31 35 (fld fsr 31 35 ||| f.bits)

/-- Sets ACCV, bit 25 (R176). -/
def fsrAccv (fsr : Word) : Word := setBit fsr 25 true

/-- What a PUTC of FSR keeps: bits 0-24 read 0 (R90). -/
def fsrMask : Word := 0o3777

/-! ## DRS (R194) -/

def drsRULE (d : Word) : Nat := fld d 14 19
def drsSCALE (d : Word) : Nat := fld d 20 25
def drsLRES (d : Word) : Nat := fld d 33 35

/-- LRES of a value: 0 zero, 1 positive, 2 negative. -/
def lresOf (v : Int) : Nat := if v = 0 then 0 else if v < 0 then 2 else 1
def setLRES (d : Word) (n : Nat) : Word := setFld d 33 35 n
def setDOV (d : Word) : Word := setBit d 31 true
def setDINX (d : Word) (b : Bool) : Word := if b then setBit d 32 true else d

/-- What a PUTC of DRS keeps: RULE, SCALE, DOV, DINX, LRES (R90). -/
def drsMask : Word := 0o17776037

/-- A result overflows when its significant digits exceed `n` (R190). -/
def decOverflows (m n : Nat) : Bool := decide (10 ^ n ≤ m)

/-! ## Compares (R186, R135) -/

/-- −1, 0 or +1 as a word. -/
def cmpWord (a b : Int) : Word := if a < b then 0o777777777777 else if a = b then 0 else 1

end Sys2Proof.Machine
end

