-- ==== Sys2Proof/Config.lean ====
section
/-! DEFINITION. Values that the spec leaves open (00 R15): constants without a body. -/

namespace Sys2Proof

/-- The `n`-th free value of width `w`: an indeterminate value of R15. `n` is the counter that the state holds
(DESIGN CHOICE, log 3). -/
opaque Config.free (w : Nat) (n : Nat) : BitVec w

/-- What the host memory holds at an address that nothing in the model has written: the host's own data
(DESIGN CHOICE, log 5). -/
opaque Config.hostOctet (a : Nat) : BitVec 8

/-- Where in the header of a receive slot the OPC of its submission stands: the image's firmware interface says it
(16 R516, R518), and the spec does not (log 57). -/
opaque Config.opcAt : Fin 16

/-- The 32 check bits of 288 data bits before their inversion, the poison constant, and the syndrome of 320 stored bits
(R436-R438, R444, R450 give none of them) (DESIGN CHOICE, log 80). -/
opaque Config.checkBits (data : BitVec 288) : BitVec 32
opaque Config.poisonConst : BitVec 32
opaque Config.syndrome (word : BitVec 320) : BitVec 32

/-- The set of a home agent's directory that a line falls into (R427 gives 131,072 sets and no index function)
(DESIGN CHOICE, log 24). -/
opaque Config.dirSet (line : Nat) : Fin 131072

/-- The counter of a slice that a branch address and a history name, and the set of the target buffer that a branch falls
into (R306 states neither) (DESIGN CHOICE, log 78). -/
opaque Config.ctrIndex (pc : Word) (hist : BitVec 12) : Fin 2048
opaque Config.tgtSet (pc : Word) : Fin 128

/-- Tansy's ROM of 64 Ki syllables (R575) (DESIGN CHOICE, log 99). -/
opaque Config.tansyRom (addr : Fin 65536) : BitVec 9

/-- Bits 0-139 of a word of the microcode ROM (R318) (DESIGN CHOICE, log 79). -/
opaque Config.romWord (addr : Nat) : BitVec 140

/-- The microaddress that a dispatch on opcode reaches for an instruction's word (R317) (DESIGN CHOICE, log 79). -/
opaque Config.microEntry (word : BitVec 36) : Nat

/-- What the decrypted microcode patch holds: the words of the patch RAM and the patch-match registers, of which the spec
gives no layout (R322, R584) (DESIGN CHOICE, log 79). -/
opaque Config.patchWord (patch : List (BitVec 8)) (n : Nat) : BitVec 144
opaque Config.patchMatch (patch : List (BitVec 8)) (n : Nat) : Option (Nat × Nat)

end Sys2Proof
end

