-- ==== Sys2Proof/Machine/Mem.lean ====
section
/-! DEFINITION. Named operations over the parts of the module and over physical memory: reads and writes, poison,
lost stacks, error capture, memory ranges, the DMA extent table, rings. -/

namespace Sys2Proof.Machine

/-! ## Parts by number -/

def Sys.core (s : Sys) (k : Nat) : Core := tget {} s.cores k
def Sys.setCore (k : Nat) (c : Core) (s : Sys) : Sys := { s with cores := tset s.cores k c }
def Sys.campion (s : Sys) (c : Nat) : Campion := tget {} s.camp c
def Sys.setCampion (c : Nat) (v : Campion) (s : Sys) : Sys := { s with camp := tset s.camp c v }
def Sys.part (s : Sys) (p : Nat) : Part := tget {} s.parts p
def Sys.setPart (p : Nat) (v : Part) (s : Sys) : Sys := { s with parts := tset s.parts p v }
def Sys.bu (s : Sys) (q : Nat) : Bu := tget {} s.bus q
def Sys.setBu (q : Nat) (v : Bu) (s : Sys) : Sys := { s with bus := tset s.bus q v }
def Sys.dma (s : Sys) (q : Nat) : Dma := tget {} s.dmas q
def Sys.setDma (q : Nat) (v : Dma) (s : Sys) : Sys := { s with dmas := tset s.dmas q v }
def Sys.mc (s : Sys) (m : Nat) : Mc := tget {} s.mcs m
def Sys.setMc (m : Nat) (v : Mc) (s : Sys) : Sys := { s with mcs := tset s.mcs m v }
def Sys.vf (s : Sys) (p : Nat) : Vf := tget {} s.vfs p
def Sys.setVf (p : Nat) (v : Vf) (s : Sys) : Sys := { s with vfs := tset s.vfs p v }
def Sys.link (s : Sys) (l : Nat) : CqLink := tget {} s.fab.links l
def Sys.setLink (l : Nat) (v : CqLink) (s : Sys) : Sys :=
  { s with fab := { s.fab with links := tset s.fab.links l v } }
def Sys.img (s : Sys) : ImageTables := s.tabs.img

/-- An octet of an MSI-X table: 16 to a vector, of which octet 12 holds the mask bit, set at reset (R502) (PRESUMED, log 107). -/
def msixOct (t : Tbl Octet) (i : Nat) : Octet := tget (if i % 16 = 12 then 1 else 0) t i
def Sys.msixTable (s : Sys) (fn : Nat) : Tbl Octet := if fn = 0 then s.pf.msixT else (s.vf (fn - 1)).msixT
def Sys.masked (s : Sys) (fn vec : Nat) : Bool := (msixOct (s.msixTable fn) (16 * vec + 12)).getLsbD 0

/-- Signals an MSI-X vector of a function (0: the PF, n + 1: the VF of Pn), or leaves it pending while it is masked. -/
def Sys.msix (fn vec : Nat) (s : Sys) : Sys :=
  if s.masked fn vec then
    { s with pf := { s.pf with msixP := if s.pf.msixP.contains (fn, vec) then s.pf.msixP else (fn, vec) :: s.pf.msixP } }
  else { s with pf := { s.pf with msix := (fn, vec) :: s.pf.msix } }

/-- Pending vectors whose mask bit has been cleared are signalled. -/
def Sys.msixMoved (s : Sys) : Sys :=
  let go := s.pf.msixP.filter (fun x => !s.masked x.1 x.2)
  { s with pf := { s.pf with msix := go ++ s.pf.msix, msixP := s.pf.msixP.filter (fun x => s.masked x.1 x.2) } }

/-- The pending-bit array of a function. -/
def Sys.pba (s : Sys) (fn : Nat) : Nat := (List.range 16).foldl (fun a v => a + ((s.pf.msixP.contains (fn, v)).toNat <<< v)) 0

/-- The cluster and the quadrant of a logical core (R17). -/
def clusterOf (k : Nat) : Nat := k / 8
def quadOf (k : Nat) : Nat := k / 24

/-- The running context of a core and its bank. -/
def Sys.running (s : Sys) (k : Nat) : Option (Nat × Ctx) :=
  let c := s.core k
  match c.cur with
  | none => none
  | some b => if c.stopped then none else (tfind c.banks b).map (fun x => (b, x))

/-- The context in the running bank of core `k` (an empty one when none runs). -/
def Sys.ctx (s : Sys) (k : Nat) : Ctx :=
  match s.running k with
  | some (_, x) => x
  | none => {}

def Sys.setBank (k b : Nat) (x : Ctx) (s : Sys) : Sys :=
  let c := s.core k
  s.setCore k { c with banks := tset c.banks b x }

/-- Writes the running context of core `k`. -/
def Sys.setCtx (k : Nat) (x : Ctx) (s : Sys) : Sys :=
  match s.running k with
  | some (b, _) => s.setBank k b x
  | none => s

def Sys.modCtx (k : Nat) (f : Ctx → Ctx) (s : Sys) : Sys := s.setCtx k (f (s.ctx k))

/-- The next free value of width `w`, and the state with the counter advanced (DESIGN CHOICE, log 3). -/
def Sys.fresh (w : Nat) (s : Sys) : BitVec w × Sys := (Config.free w s.free, { s with free := s.free + 1 })

/-! ## Where an address lies (R425, R398) -/

def memSize : Nat := 0x4000000000
def stripeOf (a : Nat) : Nat := a / 0x2000000
def stackOf (a : Nat) : Nat := stripeOf a % 8
def stackOffset (a : Nat) : Nat := (stripeOf a / 8) * 0x2000000 + a % 0x2000000
/-- The address of a stack offset (the inverse of `stackOffset`). -/
def stackAddr (m off : Nat) : Nat := (off / 0x2000000 * 8 + m) * 0x2000000 + off % 0x2000000

/-- Notes a written frame for the checkpoint change bits of the pairs that have it in a region (R568). -/
def noteFrame (fr : Nat) (ps : List Pair) (t : Tbl PairSt) : Tbl PairSt :=
  match ps with
  | [] => t
  | p :: ps =>
    let t := if !p.standby && p.regions.any (fun r => r.1 ≤ fr * 4096 + 4095 && fr * 4096 < r.1 + r.2) then
        let x := tget {} t p.part
        tset t p.part { x with chgA := ninsert x.chgA fr, chgB := ninsert x.chgB fr }
      else t
    noteFrame fr ps t

/-- A line locked by a Balance Unit (R262, R490, R644), and a span that meets one. -/
def Sys.lineLocked (s : Sys) (a : Nat) : Bool :=
  s.bus.any (fun b => b.2.posts.any (fun p => p.2.locks.contains (a / 64)))
def Sys.spanLocked (s : Sys) (a n : Nat) : Bool :=
  n != 0 && (List.range ((a + n - 1) / 64 + 1 - a / 64)).any (fun i => s.lineLocked ((a / 64 + i) * 64))

/-- The data of a span changes: in memory, or in the copy of the agent that holds the line (R642); I/O space is not memory. -/
def Sys.put (a : Nat) (l : List Syl) (s : Sys) : Sys :=
  if memSize ≤ a || l.isEmpty then s
  else
    let frames := (List.range ((a + l.length - 1) / 4096 + 1 - a / 4096)).map (fun i => a / 4096 + i)
    let pairs := frames.foldl (fun t fr => noteFrame fr s.tabs.img.pairs t) s.fab.pairs
    { s with mem := msets s.mem a l, fab := { s.fab with pairs := pairs } }

def Sys.rd (s : Sys) (a n : Nat) : List Syl := mgets s.mem a n
def Sys.rdW (s : Sys) (a : Nat) : Word := wordOf (s.rd a 4)
def Sys.rdD (s : Sys) (a : Nat) : DWord := dwordOf (s.rd a 8)

/-- Octets into syllables whose marks stay (R59). -/
def octetsOver : List Syl → List Octet → List Syl
  | x :: xs, o :: os => withOctet x o :: octetsOver xs os
  | _, _ => []

/-- Code words that a span touches. -/
def cwCount (a n : Nat) : Nat := if n = 0 then 0 else (a + n - 1) / 32 + 1 - a / 32

/-! ## Storage keys (R414-R417) -/

def Sys.keyAddr (s : Sys) (pa : Nat) : Nat := s.img.ksb + pa / 4096
def Sys.keyOf (s : Sys) (pa : Nat) : Syl := mget s.mem (s.keyAddr pa)
def keyKEY (y : Syl) : Nat := fld y 5 8
def keySHARE (y : Syl) : Nat := fld y 3 4

/-! ## Memory ranges of a partition (R454) -/

def rangeHas (w : Word) (stripe : Nat) : Bool :=
  kbit w 0 &&
    (let step := 2 ^ fld w 1 2
     let first := fld w 10 22
     first ≤ stripe && (stripe - first) % step = 0 && (stripe - first) / step ≤ fld w 23 35)

def Part.word (p : Part) (i : Nat) : Word := (p.ent[i]?).getD 0
def Part.dword (p : Part) (i : Nat) : DWord := mkd (p.word i) (p.word (i + 1))

def Part.ranges (p : Part) : List Word := (List.range 16).map (fun i => p.word (16 + i))

def Sys.inRanges (s : Sys) (p a : Nat) : Bool :=
  a < memSize && (s.part p).ranges.any (fun w => rangeHas w (stripeOf a))

def Sys.spanInRanges (s : Sys) (p a n : Nat) : Bool :=
  (List.range ((a + n - 1) / 0x2000000 + 1 - a / 0x2000000)).all
    (fun i => s.inRanges p ((a / 0x2000000 + i) * 0x2000000))

/-- Fields of a partition-table entry (R453). -/
def Part.weight (p : Part) : Nat := fld (p.word 0) 8 15
def Part.hwm (p : Part) : Bool := kbit (p.word 0) 2
def Part.pgrp (p : Part) : Nat := fld (p.word 0) 16 25
def Part.taskq (p : Part) : Nat := fld (p.word 1) 4 16
def Part.bankq (p : Part) : Nat := fld (p.word 1) 17 23
def Part.aff (p : Part) (c : Nat) : Bool := kbit (p.word 1) (24 + c)
def Part.progq (p : Part) : Nat := fld (p.word 2) 0 6
def Part.prepq (p : Part) : Nat := fld (p.word 2) 7 16
def Part.lockq (p : Part) : Nat := fld (p.word 2) 17 30
def Part.nq (p : Part) : Nat := fld (p.word 3) 24 27
def Part.lkfirst (p : Part) : Nat := fld (p.word 4) 0 11
def Part.lkcnt (p : Part) : Nat := fld (p.word 4) 12 24

/-- The DXT, PCR, NTR and DCR fields: (count or LOG2, address). -/
def Part.dxt (p : Part) : Nat × Nat := (fld (p.word 6) 0 11 + 1, fld (p.dword 6) 32 71)
def Part.pcr (p : Part) : Nat × Nat := (fld (p.word 8) 0 4, fld (p.dword 8) 32 71)
def Part.ntr (p : Part) : Nat × Nat := (fld (p.word 10) 0 4, fld (p.dword 10) 32 71)
def Part.dcr (p : Part) : Nat × Nat := (fld (p.word 12) 0 4, fld (p.dword 12) 32 71)

/-! ## Custody memory (R455) -/

/-- The address lies in memory that the module parameters give to Custody. -/
def Sys.isCustody (s : Sys) (a : Nat) : Bool :=
  let i := s.img
  i.custody.any (fun r => r.1 ≤ a && a < r.1 + r.2) ||
  i.tables.any (fun t => t ≤ a && a < t + 0x400000) ||
  (i.ksb ≤ a && a < i.ksb + 0x4000000) ||
  i.jrings.any (fun t => t ≤ a && a < t + 2 ^ (12 + i.rsz) * 128) ||
  (i.ptable ≤ a && a < i.ptable + 0x40000)

end Sys2Proof.Machine
end

