-- ==== Sys2Proof/Machine/Micro.lean ====
section
/-! DEFINITION. The microcode store (09 R317-R324): microwords and their parity, ROM and patch RAM behind one space of
microaddresses, the patch-match registers, and the sequencer with its micro-stack. What the ROM's words do is the meaning of the
instructions; the spec gives the content of neither. -/

namespace Sys2Proof.Machine

/-! ## The microword (R317) -/

abbrev Microword := BitVec 144

def uNext (w : Microword) : Nat := fld w 0 2
def uAddr (w : Microword) : Nat := fld w 3 17
def uCond (w : Microword) : Nat := fld w 18 23
def uCpol (w : Microword) : Bool := kbit w 24
def uWait (w : Microword) : Nat := fld w 25 29
def uSp (w : Microword) : Nat := fld w 30 31
def uAsrc (w : Microword) : Nat := fld w 32 37
def uBsrc (w : Microword) : Nat := fld w 38 43
def uAlu (w : Microword) : Nat := fld w 44 48
def uAdst (w : Microword) : Nat := fld w 49 54
def uShf (w : Microword) : Nat := fld w 55 62
def uLp0 (w : Microword) : Nat := fld w 63 68
def uLp1 (w : Microword) : Nat := fld w 69 74
def uStp (w : Microword) : Nat := fld w 75 80
def uFun (w : Microword) : Nat := fld w 81 88
def uDec (w : Microword) : Nat := fld w 89 96
def uTbl (w : Microword) : Nat := fld w 97 101
def uCnt (w : Microword) : Nat := fld w 102 107
def uAr (w : Microword) : Nat := fld w 108 113
def uSt4 (w : Microword) : Nat := fld w 114 118
def uCp (w : Microword) : Nat := fld w 119 123
def uExc (w : Microword) : Nat := fld w 124 129
def uStk (w : Microword) : Nat := fld w 130 131
def uImm (w : Microword) : Nat := fld w 132 139
def uPar (w : Microword) : Nat := fld w 140 143

/-- The exclusive or of bits `i` to `i + n - 1`. -/
def parityOf {m : Nat} (w : BitVec m) (i : Nat) : Nat → Bool
  | 0 => false
  | n + 1 => xor (kbit w (i + n)) (parityOf w i n)

/-- The four parity bits of bits 0-34, 35-69, 70-104 and 105-139 (R317). -/
def parityBits {m : Nat} (w : BitVec m) : BitVec 4 :=
  BitVec.ofBool (parityOf w 0 35) ++ BitVec.ofBool (parityOf w 35 35) ++ BitVec.ofBool (parityOf w 70 35) ++
    BitVec.ofBool (parityOf w 105 35)

/-- A word that fails a parity check (R324). -/
def microBad (w : Microword) : Bool := BitVec.ofNat 4 (uPar w) != parityBits w

/-! ## ROM and patch RAM (R318, R322) -/

def romSize : Nat := 16384
def patchSize : Nat := 2048

/-- A word of the ROM, with its parity. -/
def romWord (a : Nat) : Microword := Config.romWord a ++ parityBits (Config.romWord a)

/-- The patch RAM address that the lowest-numbered match register for ROM address `a` names. -/
def Patch.hit (p : Patch) (a : Nat) : Option Nat := (p.regs.filterMap id).find? (fun r => r.1 = a) |>.map (fun r => r.2)

/-- The word that the sequencer fetches at a microaddress; none for a reserved one. A match register whose second address lies
below patch RAM gives its first word, one above it a zero word (DESIGN CHOICE, log 79). -/
def Patch.fetch (p : Patch) (a : Nat) : Option Microword :=
  let ram (b : Nat) : Microword := (p.ram[b - romSize]?).getD 0
  if a < romSize then some (match p.hit a with
    | some b => ram b
    | none => romWord a)
  else if a < romSize + patchSize then some (ram a) else none

/-- What the decrypted patch of the image makes of patch RAM and match registers (R322). -/
def Patch.ofOctets (l : List Octet) : Patch :=
  { ram := (List.range patchSize).map (fun n => Config.patchWord l n),
    regs := (List.range 64).map (fun n => Config.patchMatch l n) }

/-! ## The sequencer (R317-R320, R324) -/

/-- How far a routine has come: it goes on, it has ended, a word failed its parity (710), or the micro-stack did (711). -/
inductive SeqEnd where
  | running (u : USeq)
  | done
  | parity
  | fault
  deriving DecidableEq, Repr

/-- The micro-stack after a word's STK; none at a push at depth 8 or a pop at depth 0 (R319). The reserved value 3 does
nothing (DESIGN CHOICE, log 79). -/
def USeq.stk (u : USeq) (w : Microword) : Option (List Nat) :=
  match uStk w with
  | 1 => if u.stack.length < 8 then some ((u.addr + 1) :: u.stack) else none
  | 2 => match u.stack with
    | [] => none
    | _ :: l => some l
  | _ => some u.stack

/-- What a word that passed its parity check does to the sequencer (R317, R320); `entry` is where a dispatch goes, and
`cond` says whether the condition of COND or WAIT is true. A return takes the address on top of the micro-stack, and one
at depth 0 is a pop there; a word that raises an exception ends the routine (DESIGN CHOICE, log 79). -/
def USeq.step (u : USeq) (w : Microword) (entry : Nat) (cond : Bool) : SeqEnd :=
  if uNext w = 6 && uWait w != 0 && !cond then .running u
  else match u.stk w with
    | none => .fault
    | some st =>
      let goTo (a : Nat) : SeqEnd := .running { addr := a, stack := st }
      if uExc w != 0 then .done
      else match uNext w with
        | 0 => goTo (u.addr + 1)
        | 1 => goTo (uAddr w)
        | 2 => goTo (uAddr w)
        | 3 => match u.stack with
          | [] => .fault
          | r :: _ => goTo r
        | 4 => goTo entry
        | 5 => if cond != uCpol w then goTo (uAddr w) else goTo (u.addr + 1)
        | 6 => goTo (uAddr w)
        | _ => .done

/-- A run of the sequencer: one fetch for each tick. A reserved microaddress has no word, and the routine ends there
(DESIGN CHOICE, log 79). -/
def USeq.run (p : Patch) (entry : Nat) : List MicroTick → USeq → SeqEnd
  | [], u => .running u
  | t :: ts, u =>
    match p.fetch u.addr with
    | none => .done
    | some w0 =>
      let w := w0 ^^^ t.err
      if microBad w then .parity
      else match u.step w entry t.cond with
        | .running v => USeq.run p entry ts v
        | e => e

end Sys2Proof.Machine
end

