-- ==== Sys2Proof/Machine/Caches.lean ====
section
/-! DEFINITION. The caches (13 R422-R424): which lines each L1, L2 and L3 holds, and the poison bits that move with them
(R444). A line's syllables are the memory's of the model: coherence leaves no copy with another value that an agent could read
(R431, R642), so only where a line is, whether it is dirty, and its poison differ from copy to copy. -/

namespace Sys2Proof.Machine

/-! ## Memory's own copy (R436-R438, R444, R449) -/

/-- The 288 data bits of a code word, Kazwick bit 0 of word 0 first. -/
def Sys.dataBits (s : Sys) (cw : Nat) : BitVec 288 := BitVec.ofNat 288 (natOfSyls (s.rd (32 * cw) 32))

/-- The 320 bits of a code word as its stack stores them: the data, the check bits inverted and, in poison form, XORed with the
constant, and what has changed since (R436, R438, R444). -/
def Sys.storedWord (s : Sys) (cw : Nat) : BitVec 320 :=
  let d := s.dataBits cw
  (d ++ (~~~Config.checkBits d ^^^ (if s.poison.contains cw then Config.poisonConst else 0))) ^^^ tget 0 s.flips cw

/-- The 640 stored bits of a line (R436). -/
def Sys.storedLine (s : Sys) (line : Nat) : BitVec 640 := s.storedWord (2 * line) ++ s.storedWord (2 * line + 1)

/-- Symbol `i` of a code word: 36 of data, then 4 of check bits (R436). -/
def symbolOf (w : BitVec 320) (i : Nat) : BitVec 8 := w.extractLsb' (312 - 8 * i) 8

/-- In how many symbols a code word differs from what was written. -/
def badSymbols (e : BitVec 320) : Nat := ((List.range 40).filter (fun i => symbolOf e i != 0)).length

/-- Memory's copy of a half-line reads as poison: stored so, or its stack is lost (R444, R449). -/
def Sys.memPoison (s : Sys) (cw : Nat) : Bool := (s.mc (stackOf (32 * cw))).fail || s.poison.contains cw
def Sys.memBits (s : Sys) (line : Nat) : Bool × Bool := (s.memPoison (2 * line), s.memPoison (2 * line + 1))

/-- The code word is written whole: no stored bit differs from what was written. -/
def Sys.unflip (cw : Nat) (s : Sys) : Sys := { s with flips := terase s.flips cw }
def Sys.setPoison (cw : Nat) (b : Bool) (s : Sys) : Sys :=
  { s with poison := if b then ninsert s.poison cw else nerase s.poison cw }

/-- Bits of stored code words change. -/
def Sys.addFlips (e : Ecc) (s : Sys) : Sys :=
  e.foldl (fun s x =>
    let v := tget 0 s.flips x.1 ^^^ x.2
    { s with flips := if v = 0 then terase s.flips x.1 else tset s.flips x.1 v }) s

/-- A dirty line is written back to memory with its poison bits; a lost stack discards and counts it (R444, R449). -/
def Sys.writeBack (e : CLine) (s : Sys) : Sys :=
  let m := stackOf (64 * e.line)
  if (s.mc m).fail then s.setMc m { s.mc m with discards := (s.mc m).discards + 1 }
  else (((s.setPoison (2 * e.line) e.poison.1).setPoison (2 * e.line + 1) e.poison.2).unflip (2 * e.line)).unflip (2 * e.line + 1)

/-! ## One cache -/

/-- A cache's sets, and the levels of a set's tree: 2 to that power is its ways (R422). -/
structure Geo where
  sets   : Nat
  levels : Nat
  deriving DecidableEq, Repr

/-- The L1s, the L2 and the L3: the size of R422 over 64 syllables and the ways; an L3 has 12 slices of 4,096 sets. -/
def geo1 : Geo := { sets := 128, levels := 3 }
def geo2 : Geo := { sets := 1024, levels := 4 }
def geo3 : Geo := { sets := 49152, levels := 4 }

/-- The tree after a use of way `w`: each node on the way's path points away from it. The children of node `n` are 2n and
2n + 1, and node 1 is the root (PRESUMED, log 77). -/
def plruUse : Nat → Nat → Nat → Nat → Nat
  | 0, _, _, t => t
  | n + 1, node, w, t =>
    let right := w.testBit n
    plruUse n (2 * node + right.toNat) w (if t.testBit node = right then t ^^^ (1 <<< node) else t)

/-- The way that the tree points to (PRESUMED, log 77). -/
def plruVictim : Nat → Nat → Nat → Nat
  | 0, _, _ => 0
  | n + 1, node, t => (t.testBit node).toNat * 2 ^ n + plruVictim n (2 * node + (t.testBit node).toNat) t

/-- The set that a line falls into (DESIGN CHOICE, log 77). -/
def Cache.set (c : Cache) (g : Geo) (line : Nat) : CSet := tget {} c (line % g.sets)
def CSet.wayOf (x : CSet) (line : Nat) : Option Nat := (x.lines.find? (fun e => e.2.line = line)).map (fun e => e.1)
def CSet.freeWay (x : CSet) (g : Geo) : Option Nat := firstBelow (2 ^ g.levels) (fun w => (tfind x.lines w).isNone)

def Cache.find? (c : Cache) (g : Geo) (line : Nat) : Option CLine :=
  ((c.set g line).lines.find? (fun e => e.2.line = line)).map (fun e => e.2)

/-- A line leaves the cache. -/
def Cache.drop (g : Geo) (line : Nat) (c : Cache) : Cache :=
  match (c.set g line).wayOf line with
  | some w => tset c (line % g.sets) { c.set g line with lines := terase (c.set g line).lines w }
  | none => c

/-- The line that has to make room for another: none while the set has the line or a free way. -/
def Cache.victim (g : Geo) (line : Nat) (c : Cache) : Option CLine :=
  let x := c.set g line
  if (x.wayOf line).isSome || (x.freeWay g).isSome then none else tfind x.lines (plruVictim g.levels 1 x.tree)

/-- A line is used: it stands in its way, in a free one, or in that of the victim. -/
def Cache.put (g : Geo) (e : CLine) (c : Cache) : Cache :=
  let x := c.set g e.line
  let w := (x.wayOf e.line).getD ((x.freeWay g).getD (plruVictim g.levels 1 x.tree))
  tset c (e.line % g.sets) { lines := tset x.lines w e, tree := plruUse g.levels 1 w x.tree }

/-! ## The hierarchy of a cluster (R422, R423) -/

def Sys.cacheOf (s : Sys) (c : Nat) : Cache := tget [] s.l3 c
def Sys.setL3 (c : Nat) (v : Cache) (s : Sys) : Sys := { s with l3 := tset s.l3 c v }
def Sys.inL3 (s : Sys) (c line : Nat) : Bool := ((s.cacheOf c).find? geo3 line).isSome

/-- A core's own dirty copy of a line. -/
def Core.dirtyCopy (co : Core) (line : Nat) : Option CLine :=
  let d (e : Option CLine) : Option CLine := e.filter (fun e => e.dirty)
  (d (co.l1d.find? geo1 line)).or (d (co.l2.find? geo2 line))

/-- A line leaves the L1s and the L2 of a core; what was dirty there is dirty in the L3 (R423). -/
def Sys.dropCore (k line : Nat) (s : Sys) : Sys :=
  let co := s.core k
  if (co.l2.find? geo2 line).isNone then s
  else
    let s := s.setCore k { co with l1i := co.l1i.drop geo1 line, l1d := co.l1d.drop geo1 line, l2 := co.l2.drop geo2 line }
    match co.dirtyCopy line with
    | some e => s.setL3 (clusterOf k) ((s.cacheOf (clusterOf k)).put geo3 e)
    | none => s

def coresIn (c : Nat) : List Nat := (List.range 8).map (fun i => 8 * c + i)

/-- The newest copy of a line that a cluster holds. -/
def Sys.heldBy (s : Sys) (c line : Nat) : Option CLine :=
  ((s.cacheOf c).find? geo3 line).map (fun e =>
    ((coresIn c).filterMap (fun k => (s.core k).dirtyCopy line)).head?.getD e)

/-- A line leaves a cluster: its L3 and every core (R423). -/
def Sys.takeOut (c line : Nat) (s : Sys) : Option CLine × Sys :=
  if !s.inL3 c line then (none, s)
  else
    let s := (coresIn c).foldl (fun s k => s.dropCore k line) s
    ((s.cacheOf c).find? geo3 line, s.setL3 c ((s.cacheOf c).drop geo3 line))

/-- As above, and its dirty data goes to memory. -/
def Sys.dropCluster (c line : Nat) (s : Sys) : Sys :=
  match s.takeOut c line with
  | (some e, s) => if e.dirty then s.writeBack e else s
  | (none, s) => s

/-- A line leaves every cluster but one: an invalidation of its other holders (R427, R432). -/
def Sys.dropOthers (c : Option Nat) (line : Nat) (s : Sys) : Sys :=
  (List.range 12).foldl (fun s d => if c = some d then s else s.dropCluster d line) s

/-- The poison bit that an access of core `k` to `a` meets in the copy nearest to it, `far` being the home's. -/
def Sys.nearPoison (s : Sys) (k : Nat) (fetch : Bool) (a : Nat) (far : Bool) : Bool :=
  let co := s.core k
  let line := a / 64
  let e := (if fetch then co.l1i.find? geo1 line else none).or
    ((co.l1d.find? geo1 line).or ((co.l2.find? geo2 line).or (s.heldBy (clusterOf k) line)))
  match e with
  | some e => if a / 32 % 2 = 0 then e.poison.1 else e.poison.2
  | none => far

/-! ## A core's own caches -/

/-- The L2 takes a line from the L3; its victim leaves both L1s. -/
def Sys.fillL2 (k line : Nat) (s : Sys) : Sys :=
  match (s.core k).l2.find? geo2 line, s.heldBy (clusterOf k) line with
  | none, some e =>
    let s := match (s.core k).l2.victim geo2 line with
      | some v => s.dropCore k v.line
      | none => s
    let co := s.core k
    s.setCore k { co with l2 := co.l2.put geo2 { e with dirty := false } }
  | some e, _ => s.setCore k { s.core k with l2 := (s.core k).l2.put geo2 e }
  | none, none => s

/-- An L1-D line that makes room: dirty, it is written back to the L2. -/
def Core.spillL1d (line : Nat) (co : Core) : Core :=
  match co.l1d.victim geo1 line with
  | some v => { co with l1d := co.l1d.drop geo1 v.line, l2 := if v.dirty then co.l2.put geo2 v else co.l2 }
  | none => co

/-- An access of a core to a line that its cluster's L3 holds: a hit in the L1, or a fill from the levels behind it (R422). -/
def Sys.useLine (k : Nat) (fetch : Bool) (line : Nat) (s : Sys) : Sys :=
  let co := s.core k
  match if fetch then co.l1i.find? geo1 line else co.l1d.find? geo1 line with
  | some e => s.setCore k (if fetch then { co with l1i := co.l1i.put geo1 e } else { co with l1d := co.l1d.put geo1 e })
  | none =>
    let s := s.fillL2 k line
    let co := s.core k
    match co.l2.find? geo2 line with
    | none => s
    | some e =>
      s.setCore k (if fetch then
          { co with l1i := (match co.l1i.victim geo1 line with
              | some v => co.l1i.drop geo1 v.line
              | none => co.l1i).put geo1 { e with dirty := false } }
        else
          let co := co.spillL1d line
          { co with l1d := co.l1d.put geo1 { e with dirty := false } })

/-- A store makes the L1-D's line dirty, and one of a whole half-line clears its poison there (R445). -/
def Sys.dirtyLine (k line : Nat) (clear : Option Bool) (s : Sys) : Sys :=
  let co := s.core k
  match co.l1d.find? geo1 line with
  | none => s
  | some e =>
    let p := match clear with
      | some false => (false, e.poison.2)
      | some true => (e.poison.1, false)
      | none => e.poison
    s.setCore k { co with l1d := co.l1d.put geo1 { e with dirty := true, poison := p } }

/-- A half-line of a copy becomes poisoned. -/
def CLine.poisoned (a : Nat) (e : CLine) : CLine :=
  { e with poison := if a / 32 % 2 = 0 then (true, e.poison.2) else (e.poison.1, true) }

/-- An uncorrectable error in the L1-D or L2 of core `k`, or in the L3 of its cluster, in the half-line of `a`: the copy is
poisoned, and telemetry counts it; a cache that does not hold the line finds none (R447) (DEDUCED, log 77). -/
def Sys.cacheUnc (k : Nat) (inL3 : Bool) (a : Nat) (s : Sys) : Sys :=
  let co := s.core k
  let line := a / 64
  let c := clusterOf k
  let count (co : Core) : Core := { co with uncErr := co.uncErr + 1 }
  if inL3 then
    match (s.cacheOf c).find? geo3 line with
    | some e => { s.setL3 c ((s.cacheOf c).put geo3 (e.poisoned a)) with l3Err := tset s.l3Err c (tget 0 s.l3Err c + 1) }
    | none => s
  else match co.l1d.find? geo1 line, co.l2.find? geo2 line with
    | some e, _ => s.setCore k (count { co with l1d := co.l1d.put geo1 (e.poisoned a) })
    | none, some e => s.setCore k (count { co with l2 := co.l2.put geo2 (e.poisoned a) })
    | none, none => s

/-- A parity error in the L1-I: the line is invalid and comes again from the L2; telemetry counts it (R424). -/
def Sys.l1iParity (k a : Nat) (s : Sys) : Sys :=
  let co := s.core k
  if (co.l1i.find? geo1 (a / 64)).isNone then s
  else (s.setCore k { co with l1i := co.l1i.drop geo1 (a / 64), l1iErr := co.l1iErr + 1 }).useLine k true (a / 64)

end Sys2Proof.Machine
end

