-- ==== Sys2Proof/Machine/Home.lean ====
section
/-! DEFINITION. The home agents (13 R426-R450): the directory and the line trackers, what a read of a code word finds, how a
line moves to a cluster, reads and writes that do not cache, the storage keys' USED and ALTERED bits and the key caches (12 R417,
R418); and over them the DMA extent table and the rings. -/

namespace Sys2Proof.Machine

/-! ## Agents -/

/-- SRC of an error capture for a reader: a cluster 0, a Balance Unit 1, a DMA engine 2, the Journal Writer 3, a remote request 4,
Campion and Tansy 6. -/
def agentSrc : Agent → Nat
  | .cluster _ => 0
  | .bu _ => 1
  | .dma _ => 2
  | .journal => 3
  | .remote _ => 4
  | .campion _ => 6
  | .tansy => 6

def isBu : Agent → Bool
  | .bu _ => true
  | _ => false

/-- Only cluster L3s and Balance Units hold lines (R426). -/
def agentCaches : Agent → Bool
  | .cluster _ => true
  | .bu _ => true
  | _ => false

/-- The place of an agent in the order of R430. -/
def agentRank : Agent → Nat
  | .cluster c => c
  | .bu q => 12 + q
  | .dma q => 16 + q
  | .journal => 20
  | .campion c => 21 + c
  | .remote l => 33 + l
  | .tansy => 57

def clusterAgent (c : Nat) : Agent := .cluster (Fin.ofNat 12 c)
def buAgent (q : Nat) : Agent := .bu (Fin.ofNat 4 q)

/-! ## Reads of code words (R437, R438, R443, R449, R450) -/

def Mc.capture (m : Mc) (kind src cw : Nat) (syn : BitVec 32) : Mc :=
  if !m.errV || (m.errKind = 0 && kind != 0) then
    { m with errV := true, errKind := kind, errSrc := src, errCw := cw, errSyn := syn }
  else { m with lost := true }

/-- The home agent captures an error of a code word with the syndrome that it has as it is stored (R450) (DESIGN CHOICE,
log 80). -/
def Sys.capture (kind src cw : Nat) (s : Sys) : Sys :=
  let i := stackOf (32 * cw)
  s.setMc i ((s.mc i).capture kind src (stackOffset (32 * cw) / 32) (Config.syndrome (s.storedWord cw)))

/-- An uncorrectable code word is stored in poison form, counted and captured (R437, R444, R608). -/
def Sys.newlyBad (src cw : Nat) (s : Sys) : Sys :=
  let i := stackOf (32 * cw)
  let s := s.capture 1 src cw
  let m := s.mc i
  ((s.setMc i { m with ueN := sat 262143 (m.ueN + 1), uev := true, telUnc := m.telUnc + 1 }).setPoison cw true).unflip cw

/-- A corrected code word is written back, counted and captured (R437). -/
def Sys.correctedAt (src cw : Nat) (s : Sys) : Sys :=
  let i := stackOf (32 * cw)
  let s := s.capture 0 src cw
  let m := { s.mc i with telCorr := (s.mc i).telCorr + 1, cev := true }
  (s.setMc i (if src = 5 then { m with ceS := sat 262143 (m.ceS + 1) } else { m with ceD := sat 262143 (m.ceD + 1) })).unflip cw

/-- A reader (SRC `src`, 5 for Yarrow) reads a code word of memory: an error in one symbol is corrected, one in two is found
uncorrectable, and a word whose bits are all zero or all one is never valid (R437, R438). What the decoder makes of any other
error in three symbols or more is not stated: a free value says whether it finds it, takes it for another word, or sees none
(DESIGN CHOICE, log 80). -/
def Sys.readCheck (src cw : Nat) (s : Sys) : Sys :=
  let i := stackOf (32 * cw)
  let m := s.mc i
  let e := tget 0 s.flips cw
  if m.fail then s.setMc i { m with deadRds := m.deadRds + 1 }
  else if s.poison.contains cw then
    let s := s.capture 2 src cw
    s.setMc i { s.mc i with ueP := sat 262143 ((s.mc i).ueP + 1) }
  else if e = 0 then s
  else if badSymbols e = 1 then s.correctedAt src cw
  else if badSymbols e = 2 || s.storedWord cw = 0 || s.storedWord cw = BitVec.allOnes 320 then s.newlyBad src cw
  else
    let f := s.fresh 2
    let g := f.2.fresh 288
    if f.1.toNat < 2 then f.2.newlyBad src cw
    else if f.1.toNat = 2 then Sys.correctedAt src cw (g.2.put (32 * cw) (sylsOf 32 g.1.toNat))
    else g.2.put (32 * cw) (sylsOf 32 g.1.toNat)

/-- Both code words of a line. -/
def Sys.readLine (src line : Nat) (s : Sys) : Sys := (s.readCheck src (2 * line)).readCheck src (2 * line + 1)

/-! ## The directory (R427, R428) -/

def Sys.dir (s : Sys) (line : Nat) : DirEnt := tget {} s.dirs line

def DirEnt.empty (d : DirEnt) : Bool := d.owner.isNone && d.sharers.isEmpty && d.pend.isNone && d.late = 0

/-- Stores an entry; one that names nobody is freed. -/
def Sys.setDir (line : Nat) (d : DirEnt) (s : Sys) : Sys :=
  if d.empty then { s with dirs := terase s.dirs line }
  else { s with dirs := tset s.dirs line { d with stamp := s.dirUse }, dirUse := s.dirUse + 1 }

/-- Entries of the same stack and set (DESIGN CHOICE, log 24). -/
def Sys.dirPeers (s : Sys) (line : Nat) : List (Nat × DirEnt) :=
  s.dirs.filter (fun d => stackOf (64 * d.1) = stackOf (64 * line) && Config.dirSet d.1 = Config.dirSet line)

/-- Entries that may be evicted: no Balance Unit owns the line and it is not in state T (R428). -/
def Sys.dirVictims (s : Sys) (line : Nat) : List (Nat × DirEnt) :=
  (s.dirPeers line).filter (fun d => !d.2.owner.any isBu && d.2.pend.isNone)

/-- The line has an entry, or its set has room for one or can make it: 16 entries to a set (R427). -/
def Sys.dirCan (s : Sys) (line : Nat) : Bool :=
  (tfind s.dirs line).isSome || s.dirs.length < 16 || (s.dirPeers line).length < 16 || !(s.dirVictims line).isEmpty

/-- DIRECTORY_EVICTION (R428): a new entry that finds its set full frees the least recently used one
(DESIGN CHOICE, log 24). -/
def Sys.dirRoom (line : Nat) (s : Sys) : Sys :=
  if (tfind s.dirs line).isSome || s.dirs.length < 16 || (s.dirPeers line).length < 16 then s
  else
    let l := s.dirVictims line
    match l.find? (fun d => l.all (fun e => d.2.stamp ≤ e.2.stamp)) with
    | some d =>
      let m := stackOf (64 * line)
      let s := s.dropOthers none d.1
      ({ s with dirs := terase s.dirs d.1 } : Sys).setMc m { s.mc m with evicts := (s.mc m).evicts + 1 }
    | none => s

/-- The memory of a line can be reached: its stack's fill is complete (R440). -/
def Sys.lineUp (s : Sys) (line : Nat) : Bool := (s.mc (stackOf (64 * line))).up || (s.mc (stackOf (64 * line))).fail

/-- A request for the line may be served now: it is not in state T, and its entry has room (R429). -/
def Sys.lineFree (s : Sys) (line : Nat) : Bool := (s.dir line).pend.isNone && s.dirCan line

/-- The lines of a span. -/
def linesOf (a n : Nat) : List Nat :=
  if n = 0 then [] else (List.range ((a + n - 1) / 64 + 1 - a / 64)).map (fun i => a / 64 + i)

def Sys.spanFree (s : Sys) (a n : Nat) : Bool := (linesOf a n).all (fun ln => (s.dir ln).pend.isNone)

/-- Waiters in the order of R430: commands that come while the line is in state T stand for requests of one cycle
(DESIGN CHOICE, log 23). -/
def rankIns (w : Waiter) : List Waiter → List Waiter
  | [] => [w]
  | v :: vs => if agentRank w.agent < agentRank v.agent then w :: v :: vs else v :: rankIns w vs

/-- The owner has sent its line back before a forward reached it: the request in progress waits, and the answer that a writeback
was on the way is still to come (R431). -/
def Sys.ownerGone (line : Nat) (s : Sys) : Sys :=
  let d := s.dir line
  match d.pend with
  | none => s.setDir line { d with owner := none, inFlight := false }
  | some (g, own) =>
    let s := s.setDir line { d with owner := none, pend := none, inFlight := false, late := if d.inFlight then d.late else d.late + 1 }
    { s with tracker := rankIns { agent := g, line := line, req := if own then .own else .share } s.tracker }

/-- A cluster gives up a line: dirty, memory takes it; the directory names the cluster no longer (R423) (DESIGN CHOICE, log 77:
the home learns of a clean line too). -/
def Sys.evictL3 (c line : Nat) (s : Sys) : Sys :=
  let s := s.dropCluster c line
  if (s.dir line).owner = some (clusterAgent c) then s.ownerGone line
  else s.setDir line { s.dir line with sharers := nerase (s.dir line).sharers c }

/-- The L3 of a cluster takes a line, after the eviction that its set needs. -/
def Sys.fillL3 (c : Nat) (e : CLine) (s : Sys) : Sys :=
  let s := match (s.cacheOf c).victim geo3 e.line with
    | some v => s.evictL3 c v.line
    | none => s
  s.setL3 c ((s.cacheOf c).put geo3 e)

/-- A line moves to a cluster, to share or to own: from the owner, which keeps a clean copy of a line that is read, or from memory,
which is read then (R427, R431, R432, R437). -/
def Sys.takeLine (c line : Nat) (own : Bool) (s : Sys) : Sys :=
  let d := s.dir line
  if own then
    if d.owner = some (clusterAgent c) then s
    else
      let s := s.dirRoom line
      let r : CLine × Sys := match d.owner with
        | some (.cluster o) => match s.takeOut o line with
          | (some e, s) => (e, s)
          | (none, s) => ({ line := line, poison := s.memBits line }, s)
        | _ => match (s.cacheOf c).find? geo3 line with
          | some e => (e, s)
          | none =>
            let s := if d.owner.isNone then s.readLine 0 line else s
            ({ line := line, poison := s.memBits line }, s)
      let s := r.2.dropOthers (some c) line
      (if s.inL3 c line then s else s.fillL3 c r.1).setDir line { s.dir line with owner := some (clusterAgent c), sharers := [], pend := none }
  else if s.inL3 c line then s
  else
    let s := s.dirRoom line
    match d.owner with
    | some (.cluster o) =>
      let r := s.takeOut o.val line
      let e : CLine := { (r.1.getD { line := line, poison := r.2.memBits line }) with dirty := false }
      let s := if (r.1.map (fun e => e.dirty)).getD false then r.2.writeBack e else r.2
      ((s.fillL3 o.val e).fillL3 c e).setDir line { s.dir line with owner := none, sharers := ninsert (ninsert (s.dir line).sharers o.val) c }
    | o =>
      let s := if o.isNone then s.readLine 0 line else s
      (s.fillL3 c { line := line, poison := s.memBits line }).setDir line { s.dir line with sharers := ninsert (s.dir line).sharers c }

/-- The half-line of `a` as the home agent gives it to an agent that does not cache: the owner's copy, or memory's (R432, R444). -/
def Sys.poisoned (s : Sys) (a : Nat) : Bool :=
  if memSize ≤ a then false
  else match (s.dir (a / 64)).owner with
    | some (.cluster c) => match s.heldBy c (a / 64) with
      | some e => if a / 32 % 2 = 0 then e.poison.1 else e.poison.2
      | none => s.memPoison (a / 32)
    | _ => s.memPoison (a / 32)

def Sys.poisonedSpan (s : Sys) (a n : Nat) : Bool :=
  (List.range (cwCount a n)).any (fun i => s.poisoned ((a / 32 + i) * 32))

/-! ## Uncached reads and writes (R432, R441-R445) -/

/-- An agent reads a span: from the owner's caches, from the Balance Unit that locks the line (R262), or from the stack, whose code
words are checked. -/
def Sys.fetchFor (src a n : Nat) (s : Sys) : Sys :=
  if memSize < a + n then s
  else (List.range (cwCount a n)).foldl (fun (s : Sys) i =>
    let cw := a / 32 + i
    if (s.dir (cw / 2)).owner.isSome || s.lineLocked (32 * cw) then s else s.readCheck src cw) s

/-- A line leaves every holder, and memory has what was dirty: a write that does not cache comes (R432). A request of the line that
was in progress waits again (DESIGN CHOICE, log 23). -/
def Sys.takeBack (line : Nat) (s : Sys) : Sys :=
  let d := s.dir line
  if d.owner.any isBu || (d.owner.isNone && d.sharers.isEmpty) then s
  else
    let s := (s.dropOthers none line).setDir line { d with owner := none, sharers := [], pend := none, inFlight := false }
    match d.pend with
    | some (g, own) => { s with tracker := { agent := g, line := line, req := if own then .own else .share } :: s.tracker }
    | none => s

/-- A write of syllables within one code word: a whole one clears its poison when a DMA engine or a remote request makes it; a part
of one is merged into what the word holds, and lost in a poisoned one (R441, R443, R445, R449). One that meets a line that a Balance
Unit has locked waits for the release (R262). -/
def Sys.cwWrite (src : Nat) (a : Nat) (l : List Syl) (s : Sys) : Sys :=
  let cw := a / 32
  let locked := s.lineLocked a && src != 1
  let s := if locked then s else s.takeBack (a / 64)
  let m := s.mc (stackOf a)
  let whole := a % 32 = 0 && l.length = 32
  if locked then { s with late := s.late ++ [(src, a, l)] }
  else if m.fail then s.setMc (stackOf a) { m with discards := m.discards + 1 }
  else if whole && (src = 2 || src = 4) then ((s.put a l).unflip cw).setPoison cw false
  else if whole then (if s.poison.contains cw then s.put a l else (s.put a l).unflip cw)
  else if s.poison.contains cw then s.capture 3 src cw
  else
    let s := s.readCheck src cw
    if s.poison.contains cw then s else (s.put a l).unflip cw

/-- A write of any span by an agent that does not cache, code word by code word. -/
def Sys.spanWrite (src : Nat) : Nat → Nat → List Syl → Sys → Sys
  | 0, _, _, s => s
  | fuel + 1, a, l, s =>
    if l.isEmpty || memSize ≤ a then s
    else
      let n := 32 - a % 32
      Sys.spanWrite src fuel (a + n) (l.drop n) (s.cwWrite src a (l.take n))

def Sys.wrBy (src a : Nat) (l : List Syl) (s : Sys) : Sys := s.spanWrite src (cwCount a l.length) a l

/-- A write of Campion or Tansy. -/
def Sys.wr (a : Nat) (l : List Syl) (s : Sys) : Sys := s.wrBy 6 a l
def Sys.wrW (a : Nat) (w : Word) (s : Sys) : Sys := s.wr a (sylsW w)
def Sys.wrD (a : Nat) (d : DWord) (s : Sys) : Sys := s.wr a (sylsD d)
def Sys.wrOctets (a : Nat) (l : List Octet) (s : Sys) : Sys := s.wr a (octetsOver (s.rd a l.length) l)

/-- `n` free syllables (an indeterminate range of R15), but for lines that a Balance Unit has locked, which nobody else writes
(R262). -/
def Sys.wrFree (a : Nat) : Nat → Sys → Sys
  | 0, s => s
  | n + 1, s =>
    let f := s.fresh 9
    Sys.wrFree (a + 1) n (if f.2.lineLocked a then f.2 else f.2.put a [f.1])

/-- Writes that waited for a locked line try again, in order. -/
def Sys.retryLate (s : Sys) : Sys :=
  s.late.foldl (fun (s : Sys) x => s.cwWrite x.1 x.2.1 x.2.2) { s with late := [] }

/-- A remote write by a message whose body may be poisoned (R444, R445). -/
def Sys.remoteWrite (a : Nat) (l : List Syl) (poison : Bool) (s : Sys) : Sys :=
  let s := s.wrBy 4 a l
  if poison then (List.range (cwCount a l.length)).foldl (fun (s : Sys) i => s.setPoison (a / 32 + i) true) s else s

/-! ## The line trackers (R429, R430) -/

/-- A Balance Unit takes a line, to own or to read, from whoever holds it (R426, R431). -/
def Sys.buLine (g : Agent) (line : Nat) (own : Bool) (s : Sys) : Sys :=
  let d := s.dir line
  if own then (s.dropOthers none line).setDir line { d with owner := some g, sharers := [], pend := none, inFlight := false }
  else match d.owner with
    | some (.cluster o) =>
      let r := s.takeOut o.val line
      let e : CLine := { (r.1.getD { line := line, poison := r.2.memBits line }) with dirty := false }
      let s := if (r.1.map (fun e => e.dirty)).getD false then r.2.writeBack e else r.2
      (s.fillL3 o.val e).setDir line { s.dir line with owner := none, sharers := ninsert d.sharers o.val, pend := none, inFlight := false }
    | _ => s.setDir line { d with owner := none, pend := none, inFlight := false }

/-- The line goes to the agent that asked for it (R427, R431). -/
def Sys.hand (g : Agent) (line : Nat) (own : Bool) (s : Sys) : Sys :=
  match g with
  | .cluster c => (s.setDir line { s.dir line with pend := none, inFlight := false }).takeLine c.val line own
  | _ => s.buLine g line own

/-- A request waits; each home agent's tracker has one entry for an agent. -/
def Sys.track (w : Waiter) (s : Sys) : Sys :=
  if s.tracker.any (fun v => v.agent = w.agent && stackOf (64 * v.line) = stackOf (64 * w.line)) ||
     ((s.dir w.line).pend.map (fun p => p.1)) = some w.agent then s
  else { s with tracker := rankIns w s.tracker }

/-! ## Accesses of a core (R422, R426, R427) -/

/-- A core can have the line now: its cluster holds it, or the home agent can give it. -/
def Sys.coreMay (s : Sys) (k : Nat) (own : Bool) (line : Nat) : Bool :=
  (if own then (s.dir line).owner = some (clusterAgent (clusterOf k)) else s.inL3 (clusterOf k) line) || s.lineFree line

/-- The first line of a span that core `k` cannot have now. -/
def Sys.blockedLine (s : Sys) (k : Nat) (own : Bool) (a n : Nat) : Option Nat :=
  if memSize ≤ a then none else (linesOf a n).find? (fun ln => !s.coreMay k own ln)

/-- Its request waits in the home agent's tracker. -/
def Sys.coreWaits (k : Nat) (own : Bool) (line : Nat) (s : Sys) : Sys :=
  s.track { agent := clusterAgent (clusterOf k), line := line, req := if own then .own else .share }

/-- A read of `n` syllables by core `k`: the line comes to its caches, but for one that a Balance Unit has locked, which that unit
answers (R262) (DESIGN CHOICE, log 77). -/
def Sys.useSpan (k : Nat) (fetch : Bool) (a n : Nat) (s : Sys) : Sys :=
  if memSize ≤ a then s
  else (linesOf a n).foldl (fun s ln =>
    if s.lineLocked (64 * ln) then s else (s.takeLine (clusterOf k) ln false).useLine k fetch ln) s

/-- A syllable of the loaded partition table, which nothing changes (R452). -/
def Sys.inTable (s : Sys) (a : Nat) : Bool := !s.parts.isEmpty && s.img.ptable ≤ a && a < s.img.ptable + 0x40000

/-- A store with what the partition table holds in place of the syllables that it would change (R452) (DESIGN CHOICE, log 108). -/
def Sys.sparing (s : Sys) (a : Nat) (l : List Syl) : List Syl :=
  if s.inTable a || s.inTable (a + (l.length - 1)) then
    (List.range l.length).map (fun i => if s.inTable (a + i) then tget 0 s.mem (a + i) else (l[i]?).getD 0)
  else l

/-- A store of core `k`: its cluster owns each line, every other core loses it, and the data goes to the L1-D. `whole`: a step that
covers a half-line (R445). -/
def Sys.storeSpan (k : Nat) (whole : Bool) (a : Nat) (l : List Syl) (s : Sys) : Sys :=
  let s := (linesOf a l.length).foldl (fun s ln =>
    let s := s.takeLine (clusterOf k) ln true
    let s := (coresIn (clusterOf k)).foldl (fun s j => if j = k then s else s.dropCore j ln) s
    (s.useLine k false ln).dirtyLine k ln (if whole then some (a / 32 % 2 = 1) else none)) s
  s.put a (s.sparing a l)

/-- The first syllable of a span whose half-line core `k` reads as poison (R446). -/
def Sys.poisonAt (s : Sys) (k : Nat) (fetch : Bool) (a n : Nat) : Option Nat :=
  (List.range n).find? (fun i => a + i < memSize && s.nearPoison k fetch (a + i) (s.poisoned (a + i)))

/-! ## Storage keys (R417, R418) -/

/-- The key cache of a cluster: 128 sets of 8 ways; the set of a frame is its low bits (DESIGN CHOICE, log 106). -/
def keySets : Nat := 128
def Sys.cachedKey (s : Sys) (c frame : Nat) : Option Syl :=
  ((tget [] (tget [] s.keyc c) (frame % keySets)).find? (fun e => e.frame = frame)).map (fun e => e.key)

/-- A key enters a cluster's cache; which one a full set gives up is not stated, so a free one (DESIGN CHOICE, log 106). -/
def Sys.cacheKey (c frame : Nat) (y : Syl) (s : Sys) : Sys :=
  let l := (tget [] (tget [] s.keyc c) (frame % keySets)).filter (fun e => e.frame != frame)
  let f := if 8 ≤ l.length then s.fresh 3 else (0, s)
  let l := if 8 ≤ l.length then l.eraseIdx f.1.toNat else l
  { f.2 with keyc := tset f.2.keyc c (tset (tget [] f.2.keyc c) (frame % keySets) ({ frame := frame, key := y } :: l)) }

/-- Every cluster's cache gives up a frame's key. -/
def Sys.dropKey (frame : Nat) (s : Sys) : Sys :=
  { s with keyc := s.keyc.map (fun c => (c.1, tset c.2 (frame % keySets)
      ((tget [] c.2 (frame % keySets)).filter (fun e => e.frame != frame)))) }

/-- The key of the frame of `pa` for an access of core `k`: from its cluster's cache, or from the key store, none where that is
poisoned (R418, R448). -/
def Sys.keyFor (k pa : Nat) (s : Sys) : Option Syl × Sys :=
  let c := clusterOf k
  match s.cachedKey c (pa / 4096) with
  | some y => (some y, s)
  | none =>
    let ka := s.keyAddr pa
    let s := s.fetchFor 0 ka 1
    if s.poisoned ka then (none, s) else (some (mget s.mem ka), s.cacheKey c (pa / 4096) (mget s.mem ka))

def usedKey (write : Bool) (y : Syl) : Syl := setBit (if write then setBit y 2 true else y) 1 true

/-- Sets USED, and ALTERED for a write, in the key store (R417); skipped, and recorded as a partial write into poison, when the key
syllable is poisoned: the key leaves the caches, since the next access that needs it takes 704. -/
def Sys.touchStore (src pa : Nat) (write : Bool) (s : Sys) : Sys :=
  let ka := s.keyAddr pa
  let y := mget s.mem ka
  if memSize ≤ pa || usedKey write y = y then s
  else if s.poisoned ka then (s.capture 3 src (ka / 32)).dropKey (pa / 4096)
  else s.wrBy src ka [usedKey write y]

/-- The same for an access of core `k`: a bit that the cached key shows set costs nothing (R417). -/
def Sys.touchKey (k pa : Nat) (write : Bool) (s : Sys) : Sys :=
  if memSize ≤ pa then s
  else match s.cachedKey (clusterOf k) (pa / 4096) with
    | some y =>
      if usedKey write y = y then s
      else
        let s := s.touchStore 0 pa write
        if (s.cachedKey (clusterOf k) (pa / 4096)).isSome then s.cacheKey (clusterOf k) (pa / 4096) (usedKey write y) else s
    | none => s.touchStore 0 pa write

/-- An access of a DMA engine or a Balance Unit to a span, at most two frames (R417). -/
def Sys.touchSpan (src a n : Nat) (write : Bool) (s : Sys) : Sys :=
  let s := s.touchStore src a write
  if (a + n - 1) / 4096 = a / 4096 then s else s.touchStore src (a + n - 1) write

/-- The writers that set the bits. -/
def touches (src : Nat) : Bool := src = 1 || src = 2

/-- An access of an agent: a read of a span, with the key bits of a DMA engine or a Balance Unit. -/
def Sys.readBy (src a n : Nat) (s : Sys) : Sys :=
  let s := s.fetchFor src a n
  if touches src && n != 0 then s.touchSpan src a n false else s

def Sys.writeBy (src a : Nat) (l : List Syl) (s : Sys) : Sys :=
  let s := if touches src && !l.isEmpty then s.touchSpan src a l.length true else s
  s.wrBy src a l

/-- One request at its service: a line that another agent owns is forwarded, which is state T; else the line is given, or the
uncached access made. -/
def Sys.serve (w : Waiter) (s : Sys) : Sys :=
  let src := agentSrc w.agent
  let line (own : Bool) : Sys :=
    let d := s.dir w.line
    match d.owner with
    | some o =>
      if o = w.agent then s.setDir w.line d
      else (s.dirRoom w.line).setDir w.line { d with pend := some (w.agent, own) }
    | none => match w.agent with
      | .cluster c => s.takeLine c.val w.line own
      | g => ((s.dirRoom w.line).readLine src w.line).buLine g w.line own
  match w.req with
  | .share => line false
  | .own => line true
  | .read a n => s.readBy src a n
  | .write a l => s.writeBy src a l

/-- The waiter may be served: what R262 holds back waits on. -/
def Sys.mayServe (s : Sys) (w : Waiter) : Bool :=
  s.lineFree w.line && (match w.req with
    | .write a l => s.spanFree a l.length && !s.spanLocked a l.length
    | .read a n => s.spanFree a n
    | .own => isBu w.agent || !s.lineLocked (64 * w.line)
    | .share => !s.lineLocked (64 * w.line))

/-- The trackers serve what they can, in the order of R430. -/
def Sys.serveAll : Nat → Sys → Sys
  | 0, s => s
  | n + 1, s =>
    match s.tracker.find? (fun w => s.mayServe w) with
    | some w => Sys.serveAll n (({ s with tracker := s.tracker.erase w } : Sys).serve w)
    | none => s

def Sys.serveTrackers (s : Sys) : Sys := s.serveAll s.tracker.length

/-! ## The DMA extent table (R475-R477) -/

/-- How a partition-relative translation ends. -/
inductive Dxt where
  | fail
  | poison (a : Nat)
  | ok (host : Bool) (a : Nat)
  deriving DecidableEq, Repr

/-- Address of the table's entry for a partition-relative address, when the table has it. -/
def Sys.dxtEntry (s : Sys) (p a : Nat) : Option Nat :=
  let d := (s.part p).dxt
  if d.1 ≤ a / 0x10000000 then none else some (d.2 + 8 * (a / 0x10000000))

/-- Translates the span of `n` units at `a` for partition `p`; `write` names the right needed. -/
def Sys.dxtXlate (s : Sys) (p a n : Nat) (write : Bool) : Dxt :=
  match s.dxtEntry p a with
  | none => .fail
  | some t =>
    if s.poisoned t then .poison t
    else
      let o := a % 0x10000000
      let x := s.rdD t
      let o' := o + (n - 1)
      if !kbit x 0 || fld x 4 7 != 0 || fld x 8 23 < o' / 4096 || 0x10000000 ≤ o' then .fail
      else if !(if write then kbit x 3 else kbit x 2) then .fail
      else
        let b := fld x 24 71 * 4096 + o
        if kbit x 1 then .ok true b
        else if s.spanInRanges p b (if n = 0 then 1 else n) then .ok false b else .fail

/-- An agent reads the entry that translates an address. -/
def Sys.dxtRead (src p a : Nat) (s : Sys) : Sys :=
  match s.dxtEntry p a with
  | some t => s.readBy src t 8
  | none => s

/-! ## Rings (R465) -/

/-- PROD, CONS of the ring at `addr`; none when the header cannot be read. -/
def Sys.ringIx (s : Sys) (addr : Nat) : Option (Nat × Nat) :=
  if s.poisoned addr then none else some ((s.rdW addr).toNat, (s.rdW (addr + 4)).toNat)

/-- The ring (LOG2, address) has a slot beyond its entries and `res` reserved ones (DEDUCED, log 57). -/
def Sys.ringFree (s : Sys) (r : Nat × Nat) (res : Nat) : Bool :=
  match s.ringIx r.2 with
  | none => false
  | some (p, c) => (p + w36 - c) % w36 + res < 2 ^ r.1

/-- The next entry of `n` syllables can be written: the header can be read (R465), and no Balance Unit holds the header's
line or the slot's (R262). -/
def Sys.ringOpen (s : Sys) (r : Nat × Nat) (n : Nat) : Bool :=
  match s.ringIx r.2 with
  | none => false
  | some (p, _) => !s.spanLocked r.2 12 && !s.spanLocked (r.2 + 32 + n * (p % 2 ^ r.1)) n

/-- An agent writes one entry of `n` syllables and then advances PROD. -/
def Sys.ringPut (src : Nat) (r : Nat × Nat) (n : Nat) (e : List Syl) (s : Sys) : Sys :=
  match s.ringIx r.2 with
  | none => s
  | some (p, _) =>
    ((s.readBy src r.2 8).writeBy src (r.2 + 32 + n * (p % 2 ^ r.1)) e).writeBy src r.2 (sylsW (BitVec.ofNat 36 ((p + 1) % w36)))

def wordsToSyls (l : List Word) : List Syl := l.flatMap sylsW

end Sys2Proof.Machine
end

