-- ==== Sys2Proof/Machine/Predict.lean ====
section
/-! DEFINITION. Branch prediction (09 R306-R310): a core's target buffer and counters, cut into one slice for each bank.
Prediction changes no architectural state; its time is not modelled (log 28). -/

namespace Sys2Proof.Machine

/-- A slice's first-use state: no target entry, every counter weakly not-taken, the history zero (R308). -/
def Slice.fresh (last : Option (Word × Word × Bool)) : Slice := { last := last }

/-- The counter of a branch: address and history combined; the spec does not give the combination. -/
def Slice.ctr (sl : Slice) (pc : Word) : BitVec 2 := tget 1 sl.ctrs (Config.ctrIndex pc sl.hist).val

/-- The target entry of a branch; one of the other world is a miss (R307). -/
def Slice.target? (sl : Slice) (pc : Word) (world : Bool) : Option TgtEnt :=
  (tget [] sl.tgts (Config.tgtSet pc).val).find? (fun e => e.pc = pc && e.world = world)

/-- What fetch predicts for a branch: taken or not, and the target where the buffer names one (R306, R309). -/
def Slice.predict (sl : Slice) (pc : Word) (world cond : Bool) : Bool × Option Word :=
  (!cond || 2 ≤ (sl.ctr pc).toNat, (sl.target? pc world).map (fun e => e.target))

/-- A two-bit counter moves one step and saturates. -/
def ctrStep (c : BitVec 2) (taken : Bool) : BitVec 2 := if taken then (if c = 3 then 3 else c + 1) else (if c = 0 then 0 else c - 1)

/-- A retired conditional branch moves its counter; the history, repaired where it was predicted wrongly, ends with its
direction (R309). -/
def Slice.direct (pc : Word) (taken : Bool) (sl : Slice) : Slice :=
  { sl with ctrs := tset sl.ctrs (Config.ctrIndex pc sl.hist).val (ctrStep (sl.ctr pc) taken),
            hist := sl.hist <<< 1 ||| BitVec.ofNat 12 taken.toNat }

/-- A retired taken branch makes its target entry; a full set gives up a free one of its 4 (R306, R309). -/
def Slice.aim (pc : Word) (world : Bool) (target : Word) (n : Nat) (sl : Slice) : Slice :=
  let i := (Config.tgtSet pc).val
  let l := (tget [] sl.tgts i).filter (fun e => !(e.pc = pc && e.world = world))
  let l := if l.length < 4 then l else l.eraseIdx (n % 4)
  { sl with tgts := tset sl.tgts i ({ pc := pc, world := world, target := target } :: l) }

/-- What the branch at the PC of the running context teaches its bank's slice at retirement: its direction, when it is
conditional, and its target, when it is taken (R309) (DESIGN CHOICE, log 78). -/
def Sys.learn (k : Nat) (cond : Option Bool) (target : Option Nat) (s : Sys) : Sys :=
  let x := s.ctx k
  let b := (s.core k).cur.getD 0
  let f := s.fresh 2
  let sl := tget {} (s.core k).pred b
  let sl := match cond with
    | some t => sl.direct x.pc t
    | none => sl
  let sl := match target with
    | some a => sl.aim x.pc (kbit x.status 0) (BitVec.ofNat 36 a) f.1.toNat
    | none => sl
  let c := f.2.core k
  f.2.setCore k { c with pred := tset c.pred b sl }

/-- A context is dispatched into bank `b`: the slice returns to first use when partition or world differ from those of the
context that the bank held before (R308) (DEDUCED, log 78). -/
def Core.enterSlice (b : Nat) (x : Ctx) (c : Core) : Core :=
  let now := (x.taskid, x.partid, kbit x.status 0)
  let sl := tget {} c.pred b
  let keep := match sl.last with
    | some l => l.1 = x.taskid || (l.2.1 = x.partid && l.2.2 = kbit x.status 0)
    | none => true
  { c with pred := tset c.pred b (if keep then { sl with last := some now } else Slice.fresh (some now)) }

end Sys2Proof.Machine
end

