-- ==== Sys2Proof/Machine/Camp.lean ====
section
/-! DEFINITION. Campion's parts (11): the task table and its mirror in memory, the ready queues and placement, banks
and victims, events, faults of tasks, and the notices of partitions (14 R465-R467). -/

namespace Sys2Proof.Machine

/-! ## Tasks (R361-R363) -/

def taskId (c i gen : Nat) : Word := mkw 36 [(11, gen), (21, c), (35, i)]
def taskGen (w : Word) : Nat := fld w 0 11
def taskClus (w : Word) : Nat := fld w 18 21
def taskIdx (w : Word) : Nat := fld w 24 35

/-- Partition identity word of R453: NONE in bit 25, PART in bits 26-35. -/
def partIdOf (none : Bool) (p : Nat) : Word := mkw 36 [(25, none.toNat), (35, p)]

def Sys.task (s : Sys) (c i : Nat) : Task := tget {} (s.campion c).tasks i
def Task.id (t : Task) (c i : Nat) : Word := taskId c i t.gen

/-- Words 0-9 of a task-table entry (R361). -/
def Task.words (t : Task) (c i : Nat) : List Word :=
  let save : DWord := match t.save with
    | some a => mkw 72 [(0, 1), (71, a)]
    | none => 0
  let tdl : DWord := BitVec.ofNat 72 t.tdl
  let run : DWord := BitVec.ofNat 72 t.run
  [mkw 36 [(3, t.state), (6, t.pri), (25, t.part), (26, t.w.toNat), (35, t.evmask)],
   t.id c i, BitVec.ofNat 36 t.events,
   (match t.resid with
    | some (k, b) => mkw 36 [(0, 1), (30, k), (35, b)]
    | none => 0),
   dw0 save, dw1 save, dw0 tdl, dw1 tdl, dw0 run, dw1 run]

/-- Address of the task-table entry, when the image gives the cluster a table. -/
def Sys.entryAddr (s : Sys) (c i : Nat) : Option Nat := (s.img.tables[c]?).map (fun t => t + 1024 * i)

/-- Writes a task and its entry in memory. -/
def Sys.setTask (c i : Nat) (t : Task) (s : Sys) : Sys :=
  let cp := s.campion c
  let s := s.setCampion c { cp with tasks := tset cp.tasks i t }
  match s.entryAddr c i with
  | some a => s.wr a (wordsToSyls (t.words c i))
  | none => s

def Sys.modTask (c i : Nat) (f : Task → Task) (s : Sys) : Sys := s.setTask c i (f (s.task c i))
def Sys.modCamp (c : Nat) (f : Campion → Campion) (s : Sys) : Sys := s.setCampion c (f (s.campion c))

/-- The live task that an identity names: its entry is not FREE and has that GEN (DESIGN CHOICE, log 14). -/
def Sys.findTask (s : Sys) (c : Nat) (w : Word) : Option Nat :=
  let t := s.task c (taskIdx w)
  if t.state != 0 && t.gen = taskGen w && taskClus w = c then some (taskIdx w) else none

/-- Index of the task that runs on core `k`. -/
def Sys.runTask (s : Sys) (k : Nat) : Option Nat := (s.running k).map (fun x => taskIdx x.2.taskid)

def Sys.modCore (k : Nat) (f : Core → Core) (s : Sys) : Sys := s.setCore k (f (s.core k))

/-- A present core with nothing to run and nothing on its way to it. -/
def Sys.idle (s : Sys) (k : Nat) : Bool :=
  let c := s.core k
  c.slot.isSome && !c.stopped && c.cur.isNone && c.switchTo.isNone &&
    !(s.campion (clusterOf k)).placing.any (fun x => x.2 = k)

/-! ## Queues (R369, R370) -/

def coresOf (c : Nat) : List Nat := (List.range 8).map (fun i => 8 * c + i)

/-- The group a task queues in: 0 for NONE = 1, else 1 + partition. -/
def Task.group (t : Task) : Nat := if t.noPart then 0 else t.part + 1

/-- DESIGN CHOICE, log 13. -/
def Sys.vtime (s : Sys) (c p : Nat) : Nat := tget 0 (s.campion c).vtime p

/-- The lowest of a list of numbers. -/
def lowest : List Nat → Option Nat
  | [] => none
  | a :: l => match lowest l with
    | some b => some (if a ≤ b then a else b)
    | none => some a

/-- RUN of a running task and V of its partition grow by the cycles that it ran since they last did, which the model leaves
free (R370) (DESIGN CHOICE, log 13). -/
def Sys.account (k : Nat) (s : Sys) : Sys :=
  let c := clusterOf k
  match s.runTask k with
  | none => s
  | some i =>
    let f := s.fresh 36
    let n := f.1.toNat
    let t := f.2.task c i
    let s := f.2.setTask c i { t with run := (t.run + n) % w72 }
    if t.noPart then s
    else
      let w := (s.part t.part).weight
      s.modCamp c (fun cp => { cp with vtime := tset cp.vtime t.part (tget 0 cp.vtime t.part + 256 * n / (if w = 0 then 1 else w)) })

/-- Every running task of a cluster counts, so that a choice sees the V of now (R370). -/
def Sys.accountAll (c : Nat) (s : Sys) : Sys :=
  (coresOf c).foldl (fun s k => match s.runTask k with
    | some i => if (s.task c i).state = 2 then s.account k else s
    | none => s) s

/-- Appends a task to its queue; V is raised when its partition had no ready task (R370) (DEDUCED, log 15). -/
def Sys.enqueue (c i : Nat) (s : Sys) : Sys :=
  let cp := s.campion c
  let t := s.task c i
  let grp := cp.ready.filter (fun j => (s.task c j).group = t.group)
  let act := cp.tasks.filterMap (fun x =>
    if !x.2.noPart && (x.2.state = 1 || x.2.state = 2 || x.2.state = 4) && x.1 != i
    then some (tget 0 cp.vtime x.2.part) else none)
  let v := match lowest act with
    | some m => if t.noPart || !grp.isEmpty || m ≤ tget 0 cp.vtime t.part then cp.vtime
                else tset cp.vtime t.part m
    | none => cp.vtime
  s.setCampion c { cp with ready := cp.ready ++ [i], vtime := v }

/-- A task that was ready or running goes to the tail of its queue; its partition's V stays (R370). -/
def Sys.requeue (c i : Nat) (s : Sys) : Sys := s.modCamp c (fun cp => { cp with ready := cp.ready ++ [i] })

def Sys.unqueue (c i : Nat) (s : Sys) : Sys :=
  s.modCamp c (fun cp => { cp with ready := nerase cp.ready i, blocked := nerase cp.blocked i })

/-- The task with the lowest PRI value that queued first. -/
def Sys.bestPri (s : Sys) (c : Nat) : List Nat → Option Nat
  | [] => none
  | i :: l => match s.bestPri c l with
    | some j => if (s.task c i).pri ≤ (s.task c j).pri then some i else some j
    | none => some i

/-- The choice of R369 and R370 among queued tasks. -/
def Sys.choose (s : Sys) (c : Nat) (l : List Nat) : Option Nat :=
  let nn := l.filter (fun i => (s.task c i).noPart)
  if !nn.isEmpty then s.bestPri c nn
  else match lowest (l.map (fun i => s.vtime c (s.task c i).part * 1024 + (s.task c i).part)) with
    | some m => s.bestPri c (l.filter (fun i => s.vtime c (s.task c i).part * 1024 + (s.task c i).part = m))
    | none => none

def Sys.mayRun (s : Sys) (c i : Nat) : Bool := (s.task c i).noPart || (s.part (s.task c i).part).st = 2

/-- A held or stopped partition's tasks are not dispatched (R461); a resident task runs on its own core (R360). -/
def Sys.eligible (s : Sys) (c k i : Nat) : Bool :=
  s.mayRun c i &&
    (match (s.task c i).resid with
     | some (j, _) => j = k
     | none => true)

/-! ## Banks (R357-R360, R373, R382, R383) -/

/-- The three translation buffers of a core change alike. -/
def Core.mapTlb (g : List TlbEnt → List TlbEnt) (c : Core) : Core :=
  { c with tlbI := g c.tlbI, tlbD := g c.tlbD, tlb2 := g c.tlb2 }

/-- Cached translations and walk-cache entries leave a core. -/
def Core.forget (hit : XlTag → Bool) (c : Core) : Core :=
  { c.mapTlb (fun l => l.filter (fun t => !hit t.toXlTag)) with walkc := c.walkc.filter (fun t => !hit t.toXlTag) }

/-- Clears a bank and every cached translation of it (R359, R399). -/
def Sys.clearBank (k b : Nat) (s : Sys) : Sys :=
  s.modCore k (fun c => 
    let c := c.forget (fun e => e.bank = b)
    { c with banks := terase c.banks b, cur := if c.cur = some b then none else c.cur,
             switchTo := if c.switchTo = some (some b) then none else c.switchTo })

def Sys.freeBank (s : Sys) (k : Nat) : Option Nat :=
  firstBelow 8 (fun b => (tfind (s.core k).banks b).isNone)

/-- Resident contexts of a partition in a cluster. -/
def Sys.residents (s : Sys) (c p : Nat) : Nat :=
  ((s.campion c).tasks.filter (fun x => x.2.resid.isSome && !x.2.noPart && x.2.part = p)).length

/-- The partition of the task holds its quota of resident contexts, those that are on their way into a bank included
(R373). -/
def Sys.quotaFull (s : Sys) (c i : Nat) : Bool :=
  let t := s.task c i
  let coming := (s.campion c).placing.filter (fun x => !(s.task c x.1).noPart && (s.task c x.1).part = t.part)
  !t.noPart && (s.part t.part).bankq ≤ s.residents c t.part + coming.length

/-- A bank of core `k` may take task `i`: it is free, and the partition has fewer resident contexts than its quota (R373) and
runs (R461). -/
def Sys.mayFill (s : Sys) (c i k : Nat) : Bool :=
  let t := s.task c i
  (s.freeBank k).isSome && (s.core k).slot.isSome && s.mayRun c i && (t.noPart || s.residents c t.part < (s.part t.part).bankq)

/-- Tasks placed on core `k` for which no bank comes free there any more go back to the head of their queues, to be placed again
(R383). -/
def Sys.unplace (c k : Nat) (s : Sys) : Sys :=
  let l := ((s.campion c).placing.filter (fun x => x.2 = k && !s.mayFill c x.1 k)).map (fun x => x.1)
  s.modCamp c (fun cp => { cp with placing := cp.placing.filter (fun x => !l.contains x.1),
                                   ready := l ++ cp.ready, blocked := cp.blocked ++ l })

/-- The victim of R382 on core `k`: resident, neither RUNNING, FAULTED nor SPILLING, dispatched least recently. -/
def Sys.victim (s : Sys) (c k : Nat) (same : Option Nat) : Option Nat :=
  let l := (s.campion c).tasks.filterMap (fun x =>
    match x.2.resid with
    | some (j, b) =>
      if j = k && (x.2.state = 1 || x.2.state = 3) &&
         (match same with
          | some p => !x.2.noPart && x.2.part = p
          | none => true)
      then some (x.2.stamp * 8 + b, x.1) else none
    | none => none)
  match lowest (l.map (fun x => x.1)) with
  | some m => (l.find? (fun x => x.1 = m)).map (fun x => x.2)
  | none => none

/-- The task can be dispatched on core `k`: its context stands there, or there is a free bank within the quota, or a
victim (R382, R383). -/
def Sys.qualifies (s : Sys) (c i k : Nat) : Bool :=
  let q := s.quotaFull c i
  (s.task c i).resid.isSome || ((s.freeBank k).isSome && !q) ||
    (s.victim c k (if q then some (s.task c i).part else none)).isSome

/-- Places a task that needs a bank on core `k`: a free bank, or a victim that is made SPILLING, or none (R383)
(DEDUCED, log 15). -/
def Sys.placeBank (c i k : Nat) (s : Sys) : Sys :=
  let t := s.task c i
  let q := s.quotaFull c i
  if (s.freeBank k).isSome && !q then
    (s.unqueue c i).modCamp c (fun cp => { cp with placing := cp.placing ++ [(i, k)] })
  else match s.victim c k (if q then some t.part else none) with
    | some v =>
      let tv := s.task c v
      let s := (s.unqueue c i).unqueue c v
      let s := s.setTask c v { tv with state := 6, prior := tv.state }
      let s := s.modCamp c (fun cp => { cp with placing := cp.placing ++ [(i, k)] })
      s.modCore k (fun co => { co with switchTo := some (tv.resid.map (fun x => x.2)) })
    | none =>
      s.modCamp c (fun cp => { cp with ready := i :: nerase cp.ready i,
                                       blocked := if cp.blocked.contains i then cp.blocked else cp.blocked ++ [i] })

/-- Dispatches a queued task on core `k`. -/
def Sys.dispatch (c i k : Nat) (s : Sys) : Sys :=
  match (s.task c i).resid with
  | some (_, b) => (s.unqueue c i).modCore k (fun co => { co with switchTo := some (some b) })
  | none => s.placeBank c i k

/-- Core `k` runs a task of the same group at a lower priority and nothing else is on its way to it (R371 rule 3). -/
def Sys.outranks (s : Sys) (c i k : Nat) : Option Nat :=
  match s.runTask k with
  | some r =>
    if (s.core k).switchTo.isNone && !((s.campion c).placing.any (fun x => x.2 = k)) &&
       (s.task c r).state = 2 && (s.task c r).group = (s.task c i).group && (s.task c i).pri < (s.task c r).pri
    then some (s.task c r).pri else none
  | none => none

/-- The cores of rules 1 to 3 of R371 for a queued task, in the order in which they come into question: the idle ones,
then those that run lower priorities. -/
def Sys.candidates (s : Sys) (c i : Nat) : List Nat :=
  let ks := (coresOf c).filter (fun k => s.eligible c k i)
  ks.filter (fun k => s.idle k) ++
    ((ks.filterMap (fun k => (s.outranks c i k).map (fun p => (7 - p) * 96 + k))).foldl ninsert []).map (fun m => m % 96)

/-- Rules 1 to 3 of R371 for a queued task, on the first core that qualifies; with none, the task waits at the head of
its queue (R383). -/
def Sys.tryPlace (c i : Nat) (s : Sys) : Sys :=
  let ks := s.candidates c i
  match ks.find? (fun k => s.qualifies c i k), ks with
  | some k, _ => s.dispatch c i k
  | none, k :: _ => s.dispatch c i k
  | none, [] => s

/-- A task becomes ready: it queues, and R371 places it. -/
def Sys.becomeReady (c i : Nat) (s : Sys) : Sys := ((s.accountAll c).enqueue c i).tryPlace c i

/-- An idle core takes the choice of R369 and R370 (DEDUCED, log 15). -/
def Sys.pick (k : Nat) (s : Sys) : Sys :=
  let c := clusterOf k
  if !s.idle k || (s.campion c).ready.isEmpty then s
  else
    let s := s.accountAll c
    match s.choose c ((s.campion c).ready.filter (fun i => s.eligible c k i)) with
    | some i => s.dispatch c i k
    | none => s

/-- Placement again after something changed: blocked tasks first, then idle cores. -/
def Sys.pump (c : Nat) (s : Sys) : Sys :=
  let bl := (s.campion c).blocked
  let s := s.modCamp c (fun cp => { cp with blocked := [] })
  let s := bl.foldl (fun s i => if (s.campion c).ready.contains i then s.tryPlace c i else s) s
  (coresOf c).foldl (fun s k => s.pick k) s

/-! ## Running, switching and ending -/

/-- Returns a save area to the head of the free list (R388, R365 ADDAREA). -/
def Sys.pushArea (c a : Nat) (s : Sys) : Sys :=
  let cp := s.campion c
  let l : DWord := match cp.freeHd with
    | some h => mkw 72 [(0, 1), (71, h)]
    | none => 0
  (s.wrD a l).setCampion c { cp with freeHd := some a, freeN := cp.freeN + 1 }

/-- Takes the head of the free list off. -/
def Sys.popArea (c : Nat) (s : Sys) : Sys :=
  let cp := s.campion c
  match cp.freeHd with
  | none => s
  | some h =>
    let s := s.fetchFor 6 h 8
    let l := s.rdD h
    s.setCampion c { cp with freeHd := if kbit l 0 then some (fld l 32 71) else none, freeN := cp.freeN - 1 }

/-- The units forget what they hold of a task (R394). -/
def Sys.dropUnits (c i : Nat) (s : Sys) : Sys :=
  let o := some (s.task c i |>.id c i).toNat
  (coresOf c).foldl (fun s k =>
    let co := s.core k
    if co.fu.owner = o || co.du.owner = o then
      s.setCore k { co with fu := if co.fu.owner = o then {} else co.fu, du := if co.du.owner = o then {} else co.du }
    else s) s

/-- A task ends (R381): bank, save area, events, timer and lazy state go, and the entry becomes FREE. -/
def Sys.endTask (c i : Nat) (s : Sys) : Sys :=
  let t := s.task c i
  let s := s.dropUnits c i
  let s := match t.resid with
    | some (k, b) => s.clearBank k b
    | none => s
  let s := match t.save with
    | some a => s.pushArea c a
    | none => s
  let s := s.unqueue c i
  let s := s.modCamp c (fun cp => { cp with placing := cp.placing.filter (fun x => x.1 != i) })
  s.setTask c i { gen := t.gen, part := t.part, noPart := t.noPart }

/-- CANCEL of R381 in the state the task is in. -/
def Sys.cancelTask (c i : Nat) (s : Sys) : Sys :=
  let t := s.task c i
  if t.state = 6 then s.setTask c i { t with cancel := true }
  else if t.state = 2 then
    let s := s.setTask c i { t with cancel := true, tdl := 0, events := 0 }
    match t.resid with
    | some (k, _) => s.modCore k (fun co => { co with switchTo := if co.switchTo.isNone then some none else co.switchTo })
    | none => s
  else (s.endTask c i).pump c

/-- The running task leaves its core at a point of R334: READY again, or ended when it was cancelled. -/
def Sys.switchOut (k : Nat) (s : Sys) : Sys :=
  let c := clusterOf k
  match s.runTask k with
  | none => s
  | some i =>
    let s := s.account k
    let s := s.modCore k (fun co => { co with cur := none })
    let t := s.task c i
    if t.cancel then s.endTask c i
    else if t.state = 2 then (s.setTask c i { t with state := 1 }).requeue c i
    else s

/-- Bank `b` becomes the running one of core `k`. -/
def Sys.switchIn (k b : Nat) (s : Sys) : Sys :=
  let c := clusterOf k
  let s := s.modCore k (fun co => { co with cur := some b, switchTo := none, waitc := none, remote := none, strHold := none, useq := none, entry := none })
  let s := s.modCore k (fun co => co.enterSlice b (s.ctx k))
  match s.runTask k with
  | none => s
  | some i =>
    let t := s.task c i
    let n := (s.campion c).clock + 1
    let s := s.modCamp c (fun cp => { cp with clock := n })
    s.setTask c i { t with state := if t.state = 1 then 2 else t.state, stamp := n }

/-! ## Events (R333, R336, R376-R380) -/

/-- EVENTS bit of a source, as a value (bit 35 is 1), and its code-3 INFO. -/
def evBit : EvSrc → Nat
  | .ready => 128
  | .notice => 64
  | .timer => 32
  | .doorbell => 16
  | .dma => 8
  | .posting => 4
  | .lock => 2
  | .scb => 1

def evInfo : EvSrc → Nat
  | .doorbell => 1
  | .dma => 2
  | .posting => 3
  | .lock => 4
  | .scb => 5
  | _ => 0

/-- Sets the pending bit of a class 11 code in the running context of `k`; a set bit keeps its INFO (R336). -/
def Sys.raise (k : Nat) (custody : Bool) (code info : Nat) (s : Sys) : Sys :=
  s.modCtx k (fun x =>
    if custody then { x with irqC := if (tfind x.irqC code).isSome then x.irqC else tset x.irqC code info }
    else { x with irqO := if (tfind x.irqO code).isSome then x.irqO else tset x.irqO code info })

/-- What an event does to a task (R376, R377). -/
def Sys.evTask (c i : Nat) (src : EvSrc) (s : Sys) : Sys :=
  let t := s.task c i
  let setBit (t : Task) : Task := { t with events := t.events ||| evBit src }
  if t.state = 2 then
    match t.resid with
    | none => s
    | some (k, _) =>
      match src with
      | .ready => s.setTask c i (setBit t)
      | .notice => s.raise k t.w 1 0
      | .timer => s.raise k t.w 2 0
      | _ =>
        let s := s.setTask c i (setBit t)
        if t.evmask &&& evBit src != 0 then s.raise k t.w 3 (evInfo src) else s
  else if t.state = 3 then (s.setTask c i { setBit t with state := 1 }).becomeReady c i
  else if t.state = 5 then (s.setTask c i { setBit t with state := 4 }).becomeReady c i
  else s.setTask c i (setBit t)

/-- An event that carries a task identity; it is dropped and counted when the task is gone (R379). -/
def Sys.event (c : Nat) (w : Word) (src : EvSrc) (s : Sys) : Sys :=
  match s.findTask c w with
  | some i => s.evTask c i src
  | none => s.modCamp c (fun cp => { cp with evDrop := sat 262143 (cp.evDrop + 1) })

/-- A Custody notice of a kind for cluster `c` (R389, R390): held while index 0 is FREE. -/
def Sys.custodyNotice (c kind : Nat) (s : Sys) : Sys :=
  if (s.task c 0).state = 0 then s.modCamp c (fun cp => { cp with heldN := ninsert cp.heldN kind })
  else s.evTask c 0 .notice

/-- The held Custody notices of a cluster, raised when its housekeeping task is created (R390) (DEDUCED, log 76). -/
def Sys.releaseNotices (c : Nat) (s : Sys) : Sys :=
  let l := (s.campion c).heldN
  let s := s.modCamp c (fun cp => { cp with heldN := [] })
  l.foldl (fun s _ => s.evTask c 0 .notice) s

/-- R389: fewer areas than the low-water mark. -/
def Sys.lowCheck (c : Nat) (s : Sys) : Sys :=
  if (s.campion c).freeN < s.img.lowMark then s.custodyNotice c 0 else s

/-! ## Notices of partitions (R465-R467) -/

def noticeSyls (kind : Nat) (n : HeldNotice) : List Syl :=
  wordsToSyls [mkw 36 [(5, kind), (15, n.status), (35, n.merged)], n.task, n.detail, 0, 0, 0, 0, 0]

/-- The notice event to the partition's initial task. -/
def Sys.noticeEvent (p : Nat) (s : Sys) : Sys :=
  match (s.part p).init with
  | some (c, w) => s.event c w .notice
  | none => s

/-- Moves held notices into the ring in kind order while there is room (DEDUCED, log 76). -/
def Sys.drainNotices (p : Nat) (s : Sys) : Sys :=
  (s.part p).held.foldl (fun s x =>
    let pt := s.part p
    if s.ringFree pt.ntr 0 && s.ringOpen pt.ntr 32 then
      let s := s.ringPut 6 pt.ntr 32 (noticeSyls x.1 x.2)
      (s.setPart p { s.part p with held := terase pt.held x.1 }).noticeEvent p
    else s) s

/-- OVF of a full ring whose header can be written. -/
def Sys.ringOvf (r : Nat × Nat) (s : Sys) : Sys :=
  if s.ringFree r 0 || s.poisoned r.2 then s else s.wrW (r.2 + 8) (setBit (s.rdW (r.2 + 8)) 0 true)

/-- Writes a notice, or sets OVF and holds or merges it (R467); one that meets a locked line is held without OVF (R262)
(DEDUCED, log 76). -/
def Sys.notice (p kind status : Nat) (task detail : Word) (s : Sys) : Sys :=
  let s := s.drainNotices p
  let pt := s.part p
  match tfind pt.held kind with
  | some h => (s.setPart p { pt with held := tset pt.held kind { h with merged := sat 0xfffff (h.merged + 1) } }).ringOvf pt.ntr
  | none =>
    let n : HeldNotice := { status := status, task := task, detail := detail, merged := 0 }
    if s.ringFree pt.ntr 0 && s.ringOpen pt.ntr 32 then
      (s.ringPut 6 pt.ntr 32 (noticeSyls kind n)).noticeEvent p
    else
      (s.setPart p { pt with held := tset pt.held kind n }).ringOvf pt.ntr

/-- A notice of a kind for which R466 states no DETAIL. -/
def Sys.noticeFree (p kind status : Nat) (s : Sys) : Sys :=
  let f := s.fresh 36
  f.2.notice p kind status 0 f.1

/-- An event for the task of an identity in whatever cluster it names. -/
def Sys.eventTo (w : Word) (src : EvSrc) (s : Sys) : Sys :=
  if taskClus w < 12 then s.event (taskClus w) w src else s

/-- A reserved slot of a partition's posting completion ring is used or given back (R287). -/
def Sys.unreserveOne (r : Nat) (s : Sys) : Sys := s.setPart r { s.part r with resP := (s.part r).resP - 1 }

/-- Writes posting completion records that waited for their ring, in order (R262, R465). -/
def Sys.flushOwedList (q : Nat) : List (Nat × List Syl × Word) → Sys → Sys
  | [], s => s
  | o :: os, s =>
    let r := (s.part o.1).pcr
    if !s.ringOpen r 32 || !s.ringFree r 0 then
      Sys.flushOwedList q os (s.setBu q { s.bu q with owed := (s.bu q).owed ++ [o] })
    else Sys.flushOwedList q os (((s.unreserveOne o.1).ringPut 1 r 32 o.2.1).eventTo o.2.2 .posting)

def Sys.flushOwed (q : Nat) (s : Sys) : Sys :=
  let l := (s.bu q).owed
  if l.isEmpty then s else Sys.flushOwedList q l (s.setBu q { s.bu q with owed := [] })

/-- Held notices of every partition and owed completion records, after a write that may have moved a CONS or cleared
poison. -/
def Sys.drainAll (s : Sys) : Sys :=
  let s := s.parts.foldl (fun s x => if x.2.held.isEmpty then s else s.drainNotices x.1) s
  (List.range 4).foldl (fun s q => s.flushOwed q) s

/-- PROD, CONS and OVF of a ring to zero. -/
def Sys.ringZero (a : Nat) (s : Sys) : Sys := s.wr a (List.replicate 12 0)

/-! ## Task faults (R349) -/

/-- Campion faults the task at index `i` of cluster `c` with a 7xx status and tells its partition; one that a CANCEL has
reached ends (R381). A task without a core, whose save area was poisoned, gives DETAIL 0 (DESIGN CHOICE, log 81; DEDUCED,
log 76). -/
def Sys.taskFault (c i status : Nat) (s : Sys) : Sys :=
  let t := s.task c i
  let core := match t.resid with
    | some (k, _) => k
    | none => 0
  let s := match t.resid with
    | some (k, b) =>
      let s := if (s.core k).cur = some b then s.account k else s
      s.modCore k (fun co =>
        if co.cur = some b then { co with cur := none, waitc := none, remote := none, strHold := none, useq := none, entry := none } else co)
    | none => s
  let s := s.dropUnits c i
  let s := s.unqueue c i
  let t := s.task c i
  let s := s.setTask c i { t with state := 7, held := none }
  let s := if t.noPart then s else s.notice t.part 1 status (t.id c i) (BitVec.ofNat 36 core)
  let s := if t.cancel then s.endTask c i else s
  if t.state = 6 then s.unplace c core else s

/-- The running task of core `k` is faulted; the core then takes other work. -/
def Sys.faultRunning (k status : Nat) (s : Sys) : Sys :=
  match s.runTask k with
  | some i => (s.taskFault (clusterOf k) i status).pump (clusterOf k)
  | none => s

end Sys2Proof.Machine
end

