-- ==== Sys2Proof/Machine/DmaOps.lean ====
section
/-! DEFINITION. The parts of the DMA engines (15): arms, list entries, transfer steps, completion, disable, bus errors,
and their registers. -/

namespace Sys2Proof.Machine

/-! ## Host memory and octet-side order (R75-R78) -/

/-- DESIGN CHOICE, log 5. -/
def Sys.hget (s : Sys) (a : Nat) : Octet := tget (Config.hostOctet a) s.host a
def Sys.hgets (s : Sys) (a : Nat) : Nat → List Octet
  | 0 => []
  | n + 1 => s.hget a :: s.hgets (a + 1) n
def Sys.hput (a : Nat) (o : Octet) (s : Sys) : Sys := { s with host := tset s.host a o }
def Sys.hputs : Nat → List Octet → Sys → Sys
  | _, [], s => s
  | a, o :: l, s => Sys.hputs (a + 1) l (s.hput a o)

/-- The group of a swap code and the position of octet `i` of a transfer after the swap (R77). -/
def swapGroup (sw : Nat) : Nat :=
  if sw = 1 then 2 else if sw = 2 then 4 else if sw = 3 then 8 else if sw = 4 then 4 else 1
def swapPos (sw i : Nat) : Nat :=
  let g := swapGroup sw
  let b := i / g * g
  if sw = 4 then b + (i % 4 + 2) % 4 else if sw = 0 then i else b + (g - 1 - i % g)

/-- The bitmap octets of a list of marks, bit [s mod 8] of octet s/8 (R76). -/
def markOctet (l : List Bool) : Octet :=
  BitVec.ofNat 8 (((List.range 8).map (fun i => if (l[i]?).getD false then 2 ^ i else 0)).foldl (· + ·) 0)
def markBit (o : Octet) (i : Nat) : Bool := o.getLsbD i

/-! ## Channels (R472-R474) -/

def dmaOwner (s : Sys) (q ch : Nat) : Option Nat := (s.img.owners.find? (fun o => o.1 = 64 * q + ch)).map (fun o => o.2)
/-- DEDUCED, log 19. -/
def Dma.chan (d : Dma) (ch : Nat) : DChan := tget {} d.chans ch
def Sys.chan (s : Sys) (q ch : Nat) : DChan := (s.dma q).chan ch
def Sys.setChan (q ch : Nat) (c : DChan) (s : Sys) : Sys :=
  let d := s.dma q
  s.setDma q { d with chans := tset d.chans ch c }

/-- 0 DISABLED, 1 IDLE, 2 ACTIVE, 3 HALTED. -/
def Sys.chanState (s : Sys) (q ch : Nat) : Nat :=
  let c := s.chan q ch
  if c.dis then 0 else if (s.dma q).halt then 3 else if c.lists.isEmpty then 1 else 2

def cfgUnit (w : Word) : Nat := let u := hfld w.toNat 35 34; if u = 0 then 1 else if u = 1 then 4 else if u = 2 then 8 else 64
def cfgMode (w : Word) : Nat := hfld w.toNat 33 32
def cfgMdir (w : Word) : Bool := w.getLsbD 31
def cfgSwap (w : Word) : Nat := hfld w.toNat 30 28

/-- Lists held by the channels of one owner: their reserved ring slots (R492). -/
def Sys.dmaReserved (s : Sys) (p : Nat) : Nat :=
  (s.dmas.map (fun d => (d.2.chans.map (fun c =>
    if dmaOwner s d.1 c.1 = some p then c.2.lists.length else 0)).foldl (· + ·) 0)).foldl (· + ·) 0

/-! ## Indeterminate destinations (R497, R501) -/

/-- Destination segments of a list whose entries have not been read, found as the engine would find them. -/
def Sys.destsFrom (s : Sys) (p : Nat) (cfg : Word) : Nat → Nat → List Seg
  | 0, _ => []
  | fuel + 1, a =>
    match s.dxtXlate p a 8 false with
    | .ok false pa =>
      let e := s.rdD pa
      let len := fld e 8 31 * cfgUnit cfg
      let here := if fld e 0 1 = 1 && len != 0 then
          match s.dxtXlate p (fld e 32 71) len true with
          | .ok h b => [{ side := h, base := b, len := len : Seg }]
          | _ => []
        else []
      if kbit e 2 then here
      else here ++ s.destsFrom p cfg fuel (if fld e 0 1 = 3 then fld e 32 71 else a + 8)
    | _ => []

/-- DESIGN CHOICE, log 49. -/
def Sys.hostFree : Nat → Nat → Sys → Sys
  | _, 0, s => s
  | a, n + 1, s =>
    let f := s.fresh 8
    Sys.hostFree (a + 1) n (f.2.hput a f.1)

/-- DESIGN CHOICE, log 49. -/
def Sys.segFree (g : Seg) (s : Sys) : Sys := if g.side then s.hostFree g.base g.len else s.wrFree g.base g.len

/-- Every destination syllable or octet of a list becomes indeterminate. -/
def Sys.listFree (p : Nat) (l : DList) (s : Sys) : Sys :=
  let ds := l.dsts ++ (if l.ended || l.stat.isSome then [] else s.destsFrom p l.cfg (65536 - l.nread) l.nextE)
  ds.foldl (fun s g => s.segFree g) s

/-! ## Completion records (R491-R494) -/

def dmaRecord (q ch st : Nat) (tag : Word) (done entries : Nat) : List Syl :=
  wordsToSyls [mkw 36 [(9, st), (15, ch), (17, q)], tag, BitVec.ofNat 36 (sat (w36 - 1) done), mkw 36 [(35, entries)]]

/-- Writes a list's record and raises source 2, unless the ring cannot be written now: its header cannot be read (R465) or a
line is locked (R262) (DEDUCED, log 20). -/
def Sys.dmaEnd (q ch p st : Nat) (l : DList) (done entries : Nat) (s : Sys) : Option Sys :=
  let r := (s.part p).dcr
  if !s.ringOpen r 16 then none
  else some ((s.ringPut 2 r 16 (dmaRecord q ch st l.tag done entries)).eventTo l.task .dma)

/-! ## Disable and enable (R496-R498) -/

/-- DRAIN of a halted engine: no channel holds a list whose record is still to be written (R500). -/
def Sys.dmaDrained (q : Nat) (s : Sys) : Sys :=
  s.setDma q { s.dma q with drain := (s.dma q).chans.all (fun c => c.2.lists.isEmpty) }

def Sys.dmaDisable (q ch : Nat) (s : Sys) : Sys :=
  let c := s.chan q ch
  if c.dis then s
  else
    let s := match dmaOwner s q ch with
      | some p => c.lists.foldl (fun (s : Sys) l => s.listFree p l) s
      | none => s
    let f := s.fresh 36
    let s := f.2.setChan q ch { c with dis := true, lists := [], done := f.1.toNat }
    if (s.dma q).halt then s.dmaDrained q else s

def Sys.dmaEnable (q ch : Nat) (s : Sys) : Sys :=
  let c := s.chan q ch
  if c.dis then s.setChan q ch { c with dis := false, done := 0 } else s

/-! ## Arming (R495) -/

/-- The first failing check of an arm, or 0. -/
def Sys.armCheck (s : Sys) (q ch : Nat) : Nat :=
  let c := s.chan q ch
  match dmaOwner s q ch with
  | none => 320
  | some p =>
    if c.dis then 321
    else if (s.dma q).halt then 324
    else if 4 < cfgSwap c.ccfg || (cfgSwap c.ccfg != 0 && cfgMode c.ccfg = 0) ||
            (cfgMdir c.ccfg && cfgMode c.ccfg != 3) || hfld c.ccfg.toNat 27 0 != 0 then 325
    else if 8 ≤ c.lists.length then 322
    else if !s.ringFree (s.part p).dcr (s.dmaReserved p) then 323
    else 0

def Sys.dmaArm (q ch : Nat) (s : Sys) : Sys :=
  let r := s.armCheck q ch
  let c := s.chan q ch
  if r = 0 then
    let l : DList := { cfg := c.ccfg, task := c.ctask, tag := c.ctag, nextE := c.clist.toNat * 16 }
    s.setChan q ch { c with ares := 0, done := if c.lists.isEmpty then 0 else c.done, lists := c.lists ++ [l] }
  else s.setChan q ch { c with ares := r }

/-! ## Bus error and halt (R499-R501) -/

/-- Writes the 301 records that can be written, of every list of channel `ch` (R500 step 2). -/
def Sys.haltLists (q ch p : Nat) : List DList → Sys → List DList × Sys
  | [], s => ([], s)
  | l :: ls, s =>
    let f := s.fresh 36
    let g := f.2.fresh 16
    match g.2.dmaEnd q ch p 301 l f.1.toNat g.1.toNat with
    | some s => Sys.haltLists q ch p ls s
    | none => (({ l with stat := some 301, ended := true } :: ls.map (fun l => { l with stat := some 301, ended := true })), s)

def Sys.haltChan (q : Nat) (s : Sys) (ch : Nat) : Sys :=
  let c := s.chan q ch
  if c.dis || c.lists.isEmpty then s
  else match dmaOwner s q ch with
    | none => s
    | some p =>
      let s := c.lists.foldl (fun (s : Sys) l => s.listFree p l) s
      let r := Sys.haltLists q ch p c.lists s
      let f := r.2.fresh 36
      f.2.setChan q ch { c with lists := r.1, done := f.1.toNat }

/-- The owners of the channels that held lists, each once. -/
def Sys.haltOwners (s : Sys) (q : Nat) : List Nat :=
  (List.range 64).foldl (fun l ch =>
    let c := s.chan q ch
    match dmaOwner s q ch with
    | some p => if c.dis || c.lists.isEmpty || l.contains p then l else l ++ [p]
    | none => l) []

def Sys.busError (q kind : Nat) (side : Bool) (line : Nat) (s : Sys) : Sys :=
  if (s.dma q).halt then s
  else
    let owners := s.haltOwners q
    let s := (List.range 64).foldl (fun s ch => s.haltChan q ch) s
    let d := s.dma q
    let dr := d.chans.all (fun c => c.2.lists.isEmpty)
    let s := s.setDma q { d with halt := true, drain := dr, kind := kind, halts := sat 0xffffff (d.halts + 1),
                                 errV := true, errSide := side, errLine := line }
    let s := s.custodyNotice (3 * q) 1
    owners.foldl (fun s p => s.notice p 4 301 0 (BitVec.ofNat 36 q)) s

/-- A W1C of DM_ESTAT.HALT (R500): DM_EERR is cleared with it, and so is KIND, of which the spec does not say so
(DESIGN CHOICE, log 98). -/
def Sys.haltClear (q : Nat) (s : Sys) : Sys :=
  let d := s.dma q
  if d.halt && d.drain then
    s.setDma q { d with halt := false, drain := false, kind := 0, errV := false, errSide := false, errLine := 0 }
  else s

/-! ## List entries (R480-R485, R647) -/

def segTotal (l : List Seg) : Nat := (l.map (fun g => g.len)).foldl (· + ·) 0

/-- Replaces the oldest list of a channel. -/
def Sys.setList (q ch : Nat) (l : DList) (s : Sys) : Sys :=
  let c := s.chan q ch
  s.setChan q ch { c with lists := l :: c.lists.drop 1 }

/-- The side a segment must lie on (R483). -/
def wantSide (cfg : Word) (kind : Nat) : Bool :=
  let m := cfgMode cfg
  if kind = 2 then true
  else if kind = 0 then m = 2 || (m = 3 && cfgMdir cfg)
  else m = 1 || (m = 3 && !cfgMdir cfg)

/-- Checks 2 to 5 of R647 on entry `e`, and its segment (none for LEN 0 and for links). -/
inductive EntR where
  | bad (code : Nat)
  | poison (a : Nat)
  | ok (g : Option Seg)
  deriving DecidableEq, Repr

def entryLen (cfg : Word) (e : DWord) : Nat := if fld e 0 1 = 2 then fld e 8 31 else fld e 8 31 * cfgUnit cfg

/-- Checks 2 and 3 of R647; an entry that passes them and covers a unit has a span to translate. -/
def entryForm (cfg : Word) (e : DWord) : Option Nat :=
  let kind := fld e 0 1
  if fld e 3 7 != 0 || (kind = 3 && (kbit e 2 || fld e 8 31 != 0 || fld e 32 71 % 8 != 0)) || (kind = 2 && cfgMode cfg != 3) then some 310
  else if kind < 2 && entryLen cfg e % swapGroup (cfgSwap cfg) != 0 then some 313
  else none

def Sys.entryCheck (s : Sys) (p : Nat) (cfg : Word) (e : DWord) : EntR :=
  let kind := fld e 0 1
  let n := entryLen cfg e
  match entryForm cfg e with
  | some c => .bad c
  | none =>
    if kind = 3 || n = 0 then .ok none
    else
      let wr := kind = 1 || (kind = 2 && !cfgMdir cfg)
      match s.dxtXlate p (fld e 32 71) n wr with
      | .fail => .bad 311
      | .poison a => .poison a
      | .ok h b => if h = wantSide cfg kind then .ok (some { side := h, base := b, len := n }) else .bad 310

/-- The engine reads the extent-table entry that translates a list entry's span (R478). -/
def Sys.entryReads (p : Nat) (cfg : Word) (e : DWord) (s : Sys) : Sys :=
  if (entryForm cfg e).isSome || fld e 0 1 = 3 || entryLen cfg e = 0 then s else s.dxtRead 2 p (fld e 32 71)

/-- A read of an agent that does not cache waits while the home agent has the line in state T (R429). -/
def Sys.entryWaits (s : Sys) (p a : Nat) : Bool :=
  match s.dxtXlate p a 8 false, s.dxtEntry p a with
  | .ok false pa, some t => !s.spanFree t 8 || !s.spanFree pa 8
  | _, some t => !s.spanFree t 8
  | _, none => false

/-- Totals at END disagree (R485) (DEDUCED, log 20). -/
def lengthBad (l : DList) : Bool :=
  segTotal l.srcs != segTotal l.dsts || (cfgMode l.cfg = 3 && segTotal l.bms != (segTotal l.srcs + 7) / 8)

def Sys.listEntry (q ch : Nat) (s : Sys) : Sys :=
  if s.chanState q ch != 2 then s
  else match dmaOwner s q ch, (s.chan q ch).lists with
    | some p, l :: _ =>
      let fail (c : Nat) : Sys := s.setList q ch { l with stat := some c, ended := true, bad := l.nread }
      if l.ended || s.entryWaits p l.nextE then s
      else if 65535 ≤ l.nread then fail 310
      else
        let s := s.dxtRead 2 p l.nextE
        let fail (c : Nat) : Sys := s.setList q ch { l with stat := some c, ended := true, bad := l.nread }
        match s.dxtXlate p l.nextE 8 false with
        | .fail => fail 311
        | .ok true _ => fail 311
        | .poison a => s.busError q 1 false (a / 64)
        | .ok false pa =>
          let s := s.readBy 2 pa 8
          if s.poisoned pa then s.busError q 1 false (pa / 64)
          else
            let e := s.rdD pa
            let s := s.entryReads p l.cfg e
            match s.entryCheck p l.cfg e with
            | .bad c => s.setList q ch { l with stat := some c, ended := true, bad := l.nread }
            | .poison a => s.busError q 1 false (a / 64)
            | .ok g =>
              let kind := fld e 0 1
              let l' := match g with
                | some x => if kind = 0 then { l with srcs := l.srcs ++ [x] }
                            else if kind = 1 then { l with dsts := l.dsts ++ [x] } else { l with bms := l.bms ++ [x] }
                | none => l
              if kbit e 2 && lengthBad l' then
                s.setList q ch { l with stat := some 312, ended := true, bad := l.nread }
              else
                s.setList q ch { l' with nread := l.nread + 1, ended := kbit e 2,
                                         nextE := if kind = 3 then fld e 32 71 else l.nextE + 8 }
    | _, _ => s

/-! ## Transfer steps (R485-R490) -/

/-- The segment, the address and what is left of the segment at offset `o` of a chain. -/
def segAt : List Seg → Nat → Option (Seg × Nat × Nat)
  | [], _ => none
  | g :: l, o => if o < g.len then some (g, g.base + o, g.len - o) else segAt l (o - g.len)

/-- Syllables that can move now. -/
def listAvail (l : DList) : Nat :=
  let n := min (segTotal l.srcs) (segTotal l.dsts)
  let n := if cfgMode l.cfg = 3 && cfgMdir l.cfg then min n (8 * segTotal l.bms) else n
  n - l.moved

def inSegs (l : List Seg) (a : Nat) : Bool := l.any (fun g => !g.side && g.base ≤ a && a < g.base + g.len)

/-- Writes one syllable's octet at the swapped position of a chain of host segments. -/
def Sys.putSwapped (segs : List Seg) (sw i : Nat) (o : Octet) (s : Sys) : Sys :=
  match segAt segs (swapPos sw i) with
  | some (_, a, _) => s.hput a o
  | none => s

/-- Bitmap octets that are complete, or the last one when the list's data is done. -/
def Sys.flushBits (l : DList) (last : Bool) : Nat → Sys → DList × Sys
  | 0, s => (l, s)
  | fuel + 1, s =>
    if l.bits.length < 8 && !(last && !l.bits.isEmpty) then (l, s)
    else match segAt l.bms l.bmDone with
      | none => (l, s)
      | some (_, a, _) =>
        Sys.flushBits { l with bits := l.bits.drop 8, bmDone := l.bmDone + 1, hostLast := some a } last fuel
          (s.hput a (markOctet (l.bits.take 8)))

/-- The step size of R488 at module-side address `a` with `n` syllables left. -/
def stepSize (a n : Nat) : Nat :=
  if a % 32 != 0 then min n (min 8 (32 - a % 32)) else if 32 ≤ n then 32 else min n 8

/-- The addresses and lengths that `n` units of a chain take from offset `o` on. -/
def segPieces : List Seg → Nat → Nat → List (Nat × Nat)
  | [], _, _ => []
  | g :: l, o, n =>
    if n = 0 then []
    else if o < g.len then (g.base + o, min n (g.len - o)) :: segPieces l 0 (n - min n (g.len - o))
    else segPieces l (o - g.len) n

/-- A step of a list: its syllables, its module-side address, and where they come from and go. -/
structure Plan where
  n   : Nat
  ma  : Nat
  src : List (Nat × Nat)
  dst : List (Nat × Nat)
  deriving DecidableEq, Repr

/-- The next step of a list, planned from the module-side address in that segment; one that needs entries which the engine has
still to read waits for them (R485, R488). -/
def planStep (l : DList) : Option Plan :=
  let av := listAvail l
  if av = 0 || (cfgMode l.cfg = 0 && !l.ended) then none
  else match segAt l.srcs l.moved, segAt l.dsts l.moved with
    | some (_, sa, sl), some (dg, da, dl) =>
      let ma := if dg.side then sa else da
      let ml := if dg.side then sl else dl
      if av < stepSize ma ml && !l.ended then none
      else
        let n := stepSize ma (min ml av)
        some { n := n, ma := ma, src := segPieces l.srcs l.moved n, dst := segPieces l.dsts l.moved n }
    | _, _ => none

/-- The data goes to the host, or comes from it. -/
def toHost (cfg : Word) : Bool := cfgMode cfg = 1 || (cfgMode cfg = 3 && !cfgMdir cfg)
def fromHost (cfg : Word) : Bool := cfgMode cfg = 2 || (cfgMode cfg = 3 && cfgMdir cfg)

/-- A step waits while a Balance Unit holds a line that it writes (R490), or the home agent has a line of it in state T (R429). -/
def Sys.planWaits (s : Sys) (cfg : Word) (p : Plan) : Bool :=
  (!toHost cfg && p.dst.any (fun x => s.spanLocked x.1 x.2 || !s.spanFree x.1 x.2)) ||
    (!fromHost cfg && p.src.any (fun x => !s.spanFree x.1 x.2))

/-- The channel asks for the funnel. -/
def Sys.dmaWants (s : Sys) (q ch : Nat) : Bool :=
  s.chanState q ch = 2 &&
    (match (s.chan q ch).lists with
     | l :: _ => (planStep l).any (fun p => !s.planWaits l.cfg p)
     | [] => false)

/-- The channel that has the funnel: the first that asks, in rotating order (R33, R474) (DESIGN CHOICE, log 104). -/
def Sys.dmaGrant (s : Sys) (q : Nat) : Option Nat :=
  ((List.range 64).map (fun i => ((s.dma q).grant + i) % 64)).find? (fun ch => s.dmaWants q ch)

/-- The grant stays with a channel to the end of a 64-syllable line (R474) (DESIGN CHOICE, log 104). -/
def Sys.dmaTurn (q ch a : Nat) (s : Sys) : Sys :=
  s.setDma q { s.dma q with grant := if a % 64 = 0 then (ch + 1) % 64 else ch }

/-- The engine's host requests carry the identity of the owner's virtual function (R479). -/
def Sys.dmaAsks (q ch : Nat) (s : Sys) : Sys :=
  s.setDma q { s.dma q with reqId := ((dmaOwner s q ch).map (fun p => p + 1)).getD 0 }

/-- The first poisoned syllable of some pieces. -/
def Sys.poisonedIn (s : Sys) (l : List (Nat × Nat)) : Option Nat :=
  (l.flatMap (fun x => (List.range x.2).map (fun i => x.1 + i))).find? (fun a => s.poisoned a)

/-- The data of a step from host memory, with the marks of its mode (R75-R77). -/
def Sys.hostData (s : Sys) (l : DList) (n : Nat) : List Syl :=
  (List.range n).map (fun i =>
    let o := match segAt l.srcs (swapPos (cfgSwap l.cfg) (l.moved + i)) with
      | some (_, a, _) => s.hget a
      | none => 0
    let m := if cfgMode l.cfg = 3 then
        (match segAt l.bms ((l.moved + i) / 8) with
         | some (_, a, _) => markBit (s.hget a) ((l.moved + i) % 8)
         | none => false)
      else false
    mkSyl m o)

/-- A write of a step to module memory; a COPY leaves the syllables that overlap its source for R487. -/
def Sys.dmaStore (l : DList) (a : Nat) (dat : List Syl) (s : Sys) : Sys :=
  let s := s.touchSpan 2 a dat.length true
  if cfgMode l.cfg = 0 && (List.range dat.length).any (fun i => inSegs l.srcs (a + i)) then
    (List.range dat.length).foldl (fun s i => if inSegs l.srcs (a + i) then s
                                              else s.cwWrite 2 (a + i) [(dat[i]?).getD 0]) s
  else s.wrBy 2 a dat

/-- One step of the oldest list of a channel (R485-R490): poison that it reads is a bus error (R499). -/
def Sys.dmaMove (q ch : Nat) (l : DList) (p : Plan) (s : Sys) : Sys :=
  let s := s.dmaTurn q ch (p.ma + p.n)
  let s := if cfgMode l.cfg = 0 then s else s.dmaAsks q ch
  let s := if fromHost l.cfg then s else p.src.foldl (fun s x => s.fetchFor 2 x.1 x.2) s
  let adv (l : DList) (s : Sys) : Sys :=
    (s.setChan q ch { s.chan q ch with done := ((s.chan q ch).done + p.n) % w36 }).setList q ch l
  match if fromHost l.cfg then none else s.poisonedIn p.src with
  | some a => s.busError q 1 false (a / 64)
  | none =>
    let dat := if fromHost l.cfg then s.hostData l p.n else p.src.flatMap (fun x => s.rd x.1 x.2)
    let s := if fromHost l.cfg then s else p.src.foldl (fun s x => s.touchSpan 2 x.1 x.2 false) s
    if toHost l.cfg then
      let s := (List.range p.n).foldl (fun s i => s.putSwapped l.dsts (cfgSwap l.cfg) (l.moved + i) (octet ((dat[i]?).getD 0))) s
      let l := { l with moved := l.moved + p.n
                        hostLast := p.dst.getLast?.map (fun x => x.1 + x.2 - 1)
                        bits := if cfgMode l.cfg = 3 then l.bits ++ dat.map mark else [] }
      let r := if cfgMode l.cfg = 3 then Sys.flushBits l false 8 s else (l, s)
      adv r.1 r.2
    else adv { l with moved := l.moved + p.n } (s.dmaStore l ((p.dst.head?.map (fun x => x.1)).getD 0) dat)

def Sys.dmaStep (q ch : Nat) (s : Sys) : Sys :=
  if s.chanState q ch != 2 then s
  else match (s.chan q ch).lists with
    | [] => s
    | l :: _ =>
      match planStep l with
      | some p => if s.dmaGrant q = some ch then s.dmaMove q ch l p else s
      | none =>
        let r := Sys.flushBits l (l.ended && listAvail l = 0 && cfgMode l.cfg = 3 && !cfgMdir l.cfg) 8 s
        r.2.setList q ch r.1

/-! ## Read-back and completion (R491, R492) -/

/-- Nothing of the list is left to move, the bitmap included. -/
def listDone (l : DList) : Bool :=
  l.ended && listAvail l = 0 &&
    (cfgMode l.cfg != 3 || cfgMdir l.cfg || l.bits.isEmpty || segTotal l.bms ≤ l.bmDone)

def Sys.dmaReadBack (q ch : Nat) (s : Sys) : Sys :=
  match (s.chan q ch).lists with
  | l :: _ => if s.chanState q ch = 2 && listDone l && l.hostLast.isSome then (s.dmaAsks q ch).setList q ch { l with readBk := true } else s
  | [] => s

/-- Destination syllables of a COPY list that overlap its source become indeterminate (R487) (DEDUCED, log 19). -/
def Sys.overlapFree (l : DList) (s : Sys) : Sys :=
  if cfgMode l.cfg != 0 then s
  else l.dsts.foldl (fun s g => (List.range g.len).foldl (fun s i =>
    if inSegs l.srcs (g.base + i) then s.wrFree (g.base + i) 1 else s) s) s

/-- A destination syllable that overlaps the source lies in a line that a Balance Unit holds: the writes of the list are not all made
yet (R490). -/
def Sys.overlapLocked (s : Sys) (l : DList) : Bool :=
  cfgMode l.cfg = 0 && l.dsts.any (fun g => (List.range g.len).any (fun i => inSegs l.srcs (g.base + i) && s.lineLocked (g.base + i)))

/-- The oldest list of a channel ends, or a halted channel's record is written. With no list left, DM_CCNT counts for none, and what
it reads is not stated: a free value (DESIGN CHOICE, log 19). -/
def Sys.dmaComplete (q ch : Nat) (s : Sys) : Sys :=
  match dmaOwner s q ch, (s.chan q ch).lists with
  | some p, l :: ls =>
    if s.chanState q ch = 2 then
      if listDone l && (l.hostLast.isNone || l.readBk) && !s.overlapLocked l then
        let s' := s.overlapFree l
        match s'.dmaEnd q ch p (l.stat.getD 0) l l.moved l.nread with
        | some s' =>
          let f := if ls.isEmpty then s'.fresh 36 else (0, s')
          f.2.setChan q ch { f.2.chan q ch with lists := ls, done := f.1.toNat }
        | none => s
      else s
    else if s.chanState q ch = 3 then
      let f := s.fresh 36
      let g := f.2.fresh 16
      match g.2.dmaEnd q ch p 301 l f.1.toNat g.1.toNat with
      | some s' =>
        let s' := s'.setChan q ch { s'.chan q ch with lists := ls }
        s'.dmaDrained q
      | none => s
    else s
  | _, _ => s

/-! ## Registers -/

/-- A register of an engine's window, as a 36-bit host value; reserved bits read 0, although an arm sees what was written to those of
DM_CCFG (R13, R495) (DEDUCED, log 19). -/
def Sys.dmaReg (s : Sys) (q off : Nat) : Nat :=
  let d := s.dma q
  if off = 0 then
    mkh [(35, d.halt.toNat), (34, d.drain.toNat), (31, d.kind),
         (24, ((List.range 64).filter (fun ch => s.chanState q ch = 2)).length), (0, d.halts)]
  else if off = 8 then mkh [(35, d.errV.toNat), (34, d.errSide.toNat), (0, d.errLine % 2 ^ 34)]
  else if off < 0x1000 || 0x2000 ≤ off then 0
  else
    let ch := (off - 0x1000) / 0x40
    let c := s.chan q ch
    match (off - 0x1000) % 0x40 with
    | 0x00 => c.ccfg.toNat / 2 ^ 28 * 2 ^ 28
    | 0x08 => c.ctask.toNat
    | 0x10 => c.ctag.toNat
    | 0x18 => c.clist.toNat
    | 0x20 => mkh [(1, c.dis.toNat)]
    | 0x28 =>
      let o := dmaOwner s q ch
      mkh [(34, s.chanState q ch), (30, c.lists.length), (29, o.isSome.toNat), (19, o.getD 0), (9, c.ares)]
    | 0x30 => c.done
    | _ => 0

/-- A Custody write of a register of an engine's window (DEDUCED, log 19). -/
def Sys.dmaWriteReg (q off : Nat) (v : Word) (s : Sys) : Sys :=
  if off = 0 then (if v.getLsbD 35 then s.haltClear q else s)
  else if off < 0x1000 || 0x2000 ≤ off then s
  else
    let ch := (off - 0x1000) / 0x40
    let c := s.chan q ch
    match (off - 0x1000) % 0x40 with
    | 0x00 => s.setChan q ch { c with ccfg := v }
    | 0x08 => s.setChan q ch { c with ctask := v }
    | 0x10 => s.setChan q ch { c with ctag := v }
    | 0x18 => s.setChan q ch { c with clist := v }
    | 0x20 =>
      let s := if v.getLsbD 1 then s.dmaDisable q ch else s.dmaEnable q ch
      if v.getLsbD 0 then s.dmaArm q ch else s
    | _ => s

end Sys2Proof.Machine
end

