-- ==== Sys2Proof/Machine/Xlate.lean ====
section
/-! DEFINITION. The checks between a Kazwick address and a syllable (12): extents, page walks, rights, storage keys and
marks, in the order of R421; STATUS fields (R94); and the ways in which an instruction stops. -/

namespace Sys2Proof.Machine

/-! ## STATUS (R94) -/

def stW (st : Word) : Bool := kbit st 0
def stSUP (st : Word) : Bool := kbit st 1
def stIE (st : Word) : Bool := kbit st 2
def stUACC (st : Word) : Bool := kbit st 3
def stAKEY (st : Word) : Nat := fld st 4 7
def stSUBN (st : Word) : Bool := kbit st 8
def stDOVT (st : Word) : Bool := kbit st 9
def stFRM (st : Word) : Nat := fld st 10 12
def stLA (st : Word) : Bool := kbit st 13
def stLREG (st : Word) : Nat := fld st 14 18
def stSHA (st : Word) : Bool := kbit st 19

def Ctx.world (x : Ctx) (w : Bool) : WorldRegs := if w then x.wc else x.wo
def Ctx.setWorld (x : Ctx) (w : Bool) (r : WorldRegs) : Ctx := if w then { x with wc := r } else { x with wo := r }
/-- The instances of the current world (R81). -/
def Ctx.cur (x : Ctx) : WorldRegs := x.world (stW x.status)
def Ctx.setCur (x : Ctx) (r : WorldRegs) : Ctx := x.setWorld (stW x.status) r
def Ctx.sup (x : Ctx) : Bool := stSUP x.status
def Ctx.custody (x : Ctx) : Bool := stW x.status
def Ctx.part (x : Ctx) : Nat := fld x.partid 26 35
def Ctx.noPart (x : Ctx) : Bool := kbit x.partid 25
/-- The partition of a context, or none (R453). -/
def Ctx.owner (x : Ctx) : Option Nat := if x.noPart then none else some x.part

/-! ## How an instruction stops (10) -/

inductive Stop where
  /-- an exception; `keep` leaves the progress made so far (RSFLUSH, strings) -/
  | exc (e : Exc) (keep : Bool)
  /-- the instruction waits; the PC stays and nothing is retired -/
  | stay
  /-- an interrupt is seen at a safe point, with the progress made so far -/
  | irq
  /-- the context no longer runs -/
  | gone
  /-- the word at the PC is another instruction's; nothing happens -/
  | other
  deriving DecidableEq, Repr

/-- What an instruction does to the module, and how it may stop. -/
abbrev M := EStateM Stop Sys

def raise {α : Type} (cls code : Nat) (acc faddr : Nat) : M α :=
  throw (.exc { cls := cls, code := code, acc := acc, faddr := faddr } false)
def mcheck {α : Type} (code status : Nat) (acc faddr : Nat) : M α :=
  throw (.exc { cls := 14, code := code, acc := acc, faddr := faddr, info := status } false)
/-- 701 POISON_CONSUMED and 704 KEY_STORE_UNCORRECTABLE (R348). -/
def poisonEx {α : Type} (acc faddr : Nat) : M α := mcheck 1 701 acc faddr
def keyStoreEx {α : Type} (acc faddr : Nat) : M α := mcheck 4 704 acc faddr
def illegal {α : Type} : M α := raise 1 1 0 0
def illegalControl {α : Type} : M α := raise 1 2 0 0
def privileged {α : Type} : M α := raise 1 3 0 0
/-- DEDUCED, log 21. -/
def misaligned {α : Type} (acc a : Nat) : M α := raise 1 4 acc a

/-- A state change without an answer. -/
def upd (f : Sys → Sys) : M Unit := modify f

/-! ## Extents (R395-R399) -/

def extV (e : DWord) : Bool := kbit e 0
def extPG (e : DWord) : Bool := kbit e 1
def extVBASE (e : DWord) : Nat := fld e 6 29
def extVSIZE (e : DWord) : Nat := fld e 30 51
def extPBASE (e : DWord) : Nat := fld e 52 71

def extCovers (e : DWord) (a : Nat) : Bool :=
  extV e && extVBASE e ≤ a / 4096 && a / 4096 ≤ extVBASE e + extVSIZE e

/-- The lowest-numbered extent that covers `a` (R396). -/
def findExt (es : Tbl DWord) (a : Nat) : Option (Nat × DWord) := es.find? (fun e => extCovers e.2 a)

/-! ## Page walks (R400-R404) -/

inductive WalkR where
  | fail (code : Nat)
  | poison (a : Nat)
  /-- the home agent has the table's line in state T (R429) -/
  | busy (line : Nat)
  /-- the page, its leaf, and the tables that upper entries named: (addresses covered, table, levels left) -/
  | ok (base size : Nat) (leaf : Nat × DWord) (ups : List (Nat × Nat × Nat))
  deriving DecidableEq, Repr

/-- The walk of R402 by core `k` from the table at `t`, with `lvls` levels left; `part` is the partition whose ranges confine
an Operating walk (R403). Its reads go through the core's caches (R404). -/
def Sys.walk (k : Nat) (part : Option Nat) (f : Nat) : Nat → Nat → Sys → WalkR × Sys
  | 0, _, s => (.fail 5, s)
  | lvls + 1, t, s0 =>
    let sz := 2 ^ (12 + 9 * lvls)
    let inside (a n : Nat) : Bool := match part with
      | some p => s0.spanInRanges p a n
      | none => true
    let a := t + 8 * ((f / sz) % 512)
    let s := s0.useSpan k false a 8
    let x := s.rdD a
    if !inside t 4096 then (.fail 5, s0)
    else if !s0.coreMay k false (a / 64) then (.busy (a / 64), s0)
    else if (s.poisonAt k false a 8).isSome then (.poison a, s)
    else if !kbit x 0 then (.fail 2, s)
    else if fld x 8 31 != 0 then (.fail 5, s)
    else if kbit x 1 then
      if fld x 32 71 % sz != 0 then (.fail 5, s)
      else if !inside (fld x 32 71) sz then (.fail 5, s)
      else (.ok (fld x 32 71) sz (a, x) [], s)
    else if lvls = 0 || fld x 2 7 != 0 || fld x 32 71 % 4096 != 0 then (.fail 5, s)
    else match Sys.walk k part f lvls (fld x 32 71) s with
      | (.ok base size leaf ups, s) => (.ok base size leaf ((sz, fld x 32 71, lvls) :: ups), s)
      | r => r

/-- The cached form of a successful walk (DESIGN CHOICE, log 12). -/
def mkTlb (b : Nat) (x : Ctx) (w : Bool) (n : Nat) (e : DWord) (va base size : Nat) (leaf : Nat × DWord) : TlbEnt :=
  let f := va - extVBASE e * 4096
  { bank := b, world := w, partid := x.partid, ext := n, vbase := va - f % size, size := size, pbase := base,
    rd := kbit e 2 && kbit leaf.2 2, wr := kbit e 3 && kbit leaf.2 3, ex := kbit e 4 && kbit leaf.2 4,
    us := kbit e 5 && kbit leaf.2 5, leaf := some leaf }

/-- A direct extent's translation, in the same form. -/
def mkDirect (b : Nat) (x : Ctx) (w : Bool) (n : Nat) (e : DWord) : TlbEnt :=
  { bank := b, world := w, partid := x.partid, ext := n, vbase := extVBASE e * 4096,
    size := (extVSIZE e + 1) * 4096, pbase := extPBASE e * 0x100000,
    rd := kbit e 2, wr := kbit e 3, ex := kbit e 4, us := kbit e 5, leaf := none }

def XlTag.covers (t : XlTag) (b : Nat) (w : Bool) (n va : Nat) : Bool :=
  t.bank = b && t.world = w && t.ext = n && t.vbase ≤ va && va < t.vbase + t.size

/-- An entry enters a buffer of `cap` entries; which one a full buffer gives up is not stated, so a free one
(DESIGN CHOICE, log 12). -/
def putFree {α : Type} (cap : Nat) (e : α) (l : List α) (s : Sys) : List α × Sys :=
  if l.length < cap then (e :: l, s)
  else ((e :: l.eraseIdx ((s.fresh 6).1.toNat % l.length)), (s.fresh 6).2)

/-- The set of the second-level buffer that an entry falls into (DESIGN CHOICE, log 12). -/
def TlbEnt.set (t : TlbEnt) : Nat := t.vbase / t.size % 256

/-- The instruction buffer of 48 entries, or the data buffer of 64, takes a translation in the place of one of the same address
(R409). -/
def Sys.tlbNear (k : Nat) (fetch : Bool) (same : TlbEnt → Bool) (t : TlbEnt) (s : Sys) : Sys :=
  let c := s.core k
  if fetch then
    let r := putFree 48 t (c.tlbI.filter (fun u => !same u)) s
    r.2.modCore k (fun c => { c with tlbI := r.1 })
  else
    let r := putFree 64 t (c.tlbD.filter (fun u => !same u)) s
    r.2.modCore k (fun c => { c with tlbD := r.1 })

/-- So does the second-level buffer, 256 sets of 8 ways (R409). -/
def Sys.tlbFar (k : Nat) (same : TlbEnt → Bool) (t : TlbEnt) (s : Sys) : Sys :=
  let l := (s.core k).tlb2.filter (fun u => !same u)
  let r := putFree 8 t (l.filter (fun u => u.set = t.set)) s
  r.2.modCore k (fun c => { c with tlb2 := r.1 ++ l.filter (fun u => u.set != t.set) })

/-- The walk cache takes the upper entries of a walk; it has 32 (R409). -/
def Sys.walked (k : Nat) (l : List WalkEnt) (s : Sys) : Sys :=
  l.foldr (fun e s =>
    let r := putFree 32 e ((s.core k).walkc.filter (fun u => u != e)) s
    r.2.modCore k (fun c => { c with walkc := r.1 })) s

/-- The upper entries of a walk, as the walk cache keeps them. -/
def upEnts (b : Nat) (x : Ctx) (w : Bool) (n : Nat) (e : DWord) (va : Nat) (ups : List (Nat × Nat × Nat)) : List WalkEnt :=
  let f := va - extVBASE e * 4096
  ups.map (fun u =>
    { bank := b, world := w, partid := x.partid, ext := n, vbase := va - f % u.1, size := u.1, table := u.2.1, lvls := u.2.2 })

/-- The walk of a paged address: from the lowest table that the walk cache names for it, else from the extent's (R402, R409). -/
def Sys.walkVa (k b : Nat) (x : Ctx) (w : Bool) (n : Nat) (e : DWord) (va : Nat) (s : Sys) : WalkR × Sys :=
  let part := if w then none else some x.part
  let f := va - extVBASE e * 4096
  let l := (s.core k).walkc.filter (fun t => t.covers b w n va)
  match l.find? (fun t => l.all (fun u => t.lvls ≤ u.lvls)) with
  | some t => s.walk k part f t.lvls t.table
  | none => s.walk k part f 3 (extPBASE e * 0x100000)

/-- The buffers and the walk cache take what a walk found. -/
def Sys.cacheWalk (k : Nat) (fetch : Bool) (same : TlbEnt → Bool) (t : TlbEnt) (ups : List WalkEnt) (s : Sys) : Sys :=
  ((s.tlbFar k same t).tlbNear k fetch same t).walked k ups

/-- The cached translation of an address: in the buffer of its kind of access, or in the second level (R409). -/
def Core.hit (c : Core) (fetch : Bool) (b : Nat) (w : Bool) (n va : Nat) : Option TlbEnt :=
  let f (l : List TlbEnt) : Option TlbEnt := l.find? (fun t => t.covers b w n va)
  (f (if fetch then c.tlbI else c.tlbD)).or (f c.tlb2)

/-- The translation of a paged address: with `useCache` the cached one, which a hit in the second level brings to the first; else
that of a walk, which is cached when it succeeds (R409) (DESIGN CHOICE, log 12). -/
def pageOf (k b : Nat) (x : Ctx) (w : Bool) (n : Nat) (e : DWord) (va acc : Nat) (useCache : Bool) : M TlbEnt := do
  let s ← get
  let fetch := acc = 1
  let same (t : TlbEnt) : Bool := t.covers b w n va
  match if useCache then (s.core k).hit fetch b w n va else none with
  | some t =>
    if !((if fetch then (s.core k).tlbI else (s.core k).tlbD).any same) then upd (fun s => s.tlbNear k fetch same t)
    pure t
  | none =>
    let r := s.walkVa k b x w n e va
    set r.2
    match r.1 with
    | .busy ln =>
      upd (fun s => s.coreWaits k false ln)
      throw .stay
    | .fail c => raise 2 c acc va
    | .poison _ => poisonEx acc va
    | .ok base size leaf ups =>
      let t := mkTlb b x w n e va base size leaf
      upd (fun s => s.cacheWalk k fetch same t (upEnts b x w n e va ups))
      pure t

/-! ## Rights, keys and marks (R405-R408, R414-R417) -/

/-- R415 for an access (1 fetch, 2 read, 3 write) to a frame with key syllable `y`; none when it is allowed. -/
def keyCheck (st : Word) (acc : Nat) (y : Syl) : Option Nat :=
  if !stSUP st && stAKEY st = 0 then some 3
  else if stAKEY st = 0 || stAKEY st = keyKEY y then none
  else if acc = 3 then some 1
  else if acc = 2 then (if keySHARE y ≤ 1 then none else some 2)
  else (if keySHARE y = 0 || keySHARE y = 2 then none else some 2)

/-- The hardware-mark option of R407 at the current level. -/
def Sys.markOption (s : Sys) (k : Nat) (x : Ctx) (st : Word) : Bool :=
  !stSUP st && (if stW st then (s.img.hwmC[clusterOf k]?).getD false else (s.part x.part).hwm)

/-- AM and, for a write, DM of a leaf. -/
def marksOk (t : TlbEnt) (acc : Nat) : Bool :=
  match t.leaf with
  | some l => kbit l.2 6 && (acc != 3 || kbit l.2 7)
  | none => true

/-- Sets AM, and DM for a write, in the leaf at `a` (R407). -/
def Sys.setMarks (a : Nat) (acc : Nat) (s : Sys) : Sys :=
  s.wrBy 0 a (sylsW (setBit (if acc = 3 then setBit (s.rdW a) 7 true else s.rdW a) 6 true))

/-- The same for a fetch or a load, which waits while a Balance Unit holds the leaf's line (R262). -/
def markNow (a acc : Nat) : M Unit := do
  if (← get).lineLocked a then throw .stay
  upd (fun s => s.setMarks a acc)

/-- The supervisor guard, the rights and the key of a translation (R421 steps 3 to 5). -/
def checkAccess (k : Nat) (st : Word) (acc va : Nat) (t : TlbEnt) : M Unit := do
  let s ← get
  let pa := t.pbase + (va - t.vbase)
  if stSUP st && t.us && (acc = 1 || !stUACC st) then raise 2 4 acc va
  if !(if acc = 1 then t.ex else if acc = 2 then t.rd else t.wr) || (!stSUP st && !t.us) then raise 2 3 acc va
  if pa < memSize then
    let r := s.keyFor k pa
    set r.2
    match r.1 with
    | none => keyStoreEx acc va
    | some y => match keyCheck st acc y with
      | some c => raise 3 c acc va
      | none => pure ()

/-- How a translation ends: the physical address, and the leaf whose marks a store sets at its commit. -/
structure Xl where
  pa   : Nat
  leaf : Option (Nat × DWord) := none
  deriving DecidableEq, Repr

/-- Puts the marks of an entry in the cache to their value in memory (DESIGN CHOICE, log 12). -/
def refreshTlb (k : Nat) (t : TlbEnt) : M Unit :=
  upd (fun s => s.modCore k (fun co =>
    co.mapTlb (fun l => l.map (fun u =>
      if u = t then { u with leaf := u.leaf.map (fun l => (l.1, s.rdD l.1)) } else u))))

/-- All checks of R421 on the address `va` for one access, under STATUS `st` and the extents of world `w`. `entry` is
the mark rule of R331. A fetch or a load sets its marks and key bits; a store leaves them to its commit
(DESIGN CHOICE, log 12). -/
def xlate (k b : Nat) (x : Ctx) (st : Word) (acc va : Nat) (entry : Bool) : M Xl := do
  let s ← get
  let w := stW st
  match findExt (x.world w).exts va with
  | none => raise 2 1 acc va
  | some (n, e) =>
    let t ← if extPG e then pageOf k b x w n e va acc true else pure (mkDirect b x w n e)
    checkAccess k st acc va t
    let pa := t.pbase + (va - t.vbase)
    if marksOk t acc then
      if acc != 3 then upd (fun s => s.touchKey k pa false)
      pure { pa := pa }
    else
      let t ← pageOf k b x w n e va acc false
      checkAccess k st acc va t
      let pa := t.pbase + (va - t.vbase)
      if marksOk t acc then
        if acc != 3 then upd (fun s => s.touchKey k pa false)
        pure { pa := pa }
      else
        match t.leaf with
        | none => pure { pa := pa }
        | some l =>
          if entry then
            markNow l.1 acc
            refreshTlb k t
            if acc != 3 then upd (fun s => s.touchKey k pa false)
            pure { pa := pa }
          else if s.markOption k x st then
            if acc = 3 then pure { pa := pa, leaf := some l }
            else
              markNow l.1 acc
              refreshTlb k t
              upd (fun s => s.touchKey k pa false)
              pure { pa := pa }
          else raise 4 (if acc = 3 && !kbit l.2 7 then 2 else 1) acc va

/-- The top of the virtual address space (R55). -/
def vaTop : Nat := 0x1000000000

/-- Translates a span of `n` syllables at `va`, page by page in ascending order; each piece is (physical address,
length, leaf). -/
def xlateSpan (k b : Nat) (x : Ctx) (acc : Nat) : Nat → Nat → Nat → M (List (Nat × Nat × Option (Nat × DWord)))
  | 0, _, _ => pure []
  | fuel + 1, va, n =>
    if n = 0 then pure []
    else if vaTop ≤ va then raise 2 1 acc (va % vaTop)
    else do
      let r ← xlate k b x x.status acc va false
      let here := 4096 - va % 4096
      let m := if n ≤ here then n else here
      let l ← xlateSpan k b x acc fuel (va + m) (n - m)
      pure ((r.pa, m, r.leaf) :: l)

end Sys2Proof.Machine
end

