-- ==== Sys2Proof/Machine/Port.lean ====
section
/-! DEFINITION. Campion's command port (11 R364-R368, R390, R646): the seven commands and their results. -/

namespace Sys2Proof.Machine

/-- Who issued a command: the core, the context, and the world and level of the store. -/
structure Issuer where
  k     : Nat
  x     : Ctx
  world : Bool
  sup   : Bool
  deriving DecidableEq, Repr

/-- The context that runs on core `k`, at its present world and level. -/
def Sys.issuer (s : Sys) (k : Nat) : Issuer :=
  let x := s.ctx k
  { k := k, x := x, world := stW x.status, sup := stSUP x.status }

/-- An Operating-world command may name only a task of the issuer's partition (R366). -/
def mayName (i : Issuer) (t : Task) : Bool := i.world || (!t.noPart && t.part = i.x.part)

/-- The Custody virtual address that the lowest-numbered direct extent with RD and WR over a whole task table gives for it
(R646). -/
def tableVa (l : List DWord) (t : Nat) : Option Nat :=
  (l.find? (fun e => extV e && !extPG e && kbit e 2 && kbit e 3 && extPBASE e * 0x100000 ≤ t &&
      t + 0x400000 ≤ extPBASE e * 0x100000 + (extVSIZE e + 1) * 4096)).map
    (fun e => extVBASE e * 4096 + (t - extPBASE e * 0x100000))

/-- R646 for an image: every cluster's template maps its task table, at addresses within the 2^36 syllables. -/
def templatesOk (i : ImageTables) : Bool :=
  (List.range 12).all (fun c => match i.tables[c]? with
    | some t => (tableVa ((i.templates[c]?).getD []) t).isSome
    | none => true)

def Sys.template (s : Sys) (c : Nat) : List DWord := (s.img.templates[c]?).getD []

/-- A list as a sparse table by index, zero entries left out. -/
def tblOf (l : List DWord) : Tbl DWord :=
  (List.range l.length).filterMap (fun i => match l[i]? with
    | some v => if v = 0 then none else some (i, v)
    | none => none)

/-- SSP_C of a task: the Custody virtual address of syllable 1,024 of its entry (R368, R646); an image whose template gives
none is never loaded (R646, `templatesOk`). -/
def Sys.taskStack (s : Sys) (c i : Nat) : Word :=
  match s.entryAddr c i with
  | some a => match tableVa (s.template c) (a - 1024 * i) with
    | some v => BitVec.ofNat 36 (v + 1024 * i + 1024)
    | none => 0
  | none => 0

/-- The lowest FREE index from 1 on (R390 keeps index 0), with the generation its next use takes (R362)
(DESIGN CHOICE, log 14). -/
def Sys.freeIndex (s : Sys) (c : Nat) : Option Nat :=
  firstBelow 4096 (fun i => i != 0 && (s.task c i).state = 0)

def Sys.nextGen (s : Sys) (c i : Nat) : Nat :=
  match tfind (s.campion c).tasks i with
  | some t => (t.gen + 1) % 4096
  | none => 0

def Sys.taskCount (s : Sys) (c p : Nat) : Nat :=
  ((s.campion c).tasks.filter (fun t => t.2.state != 0 && !t.2.noPart && t.2.part = p)).length

/-- The eight words of a creation block, or none when it cannot be used (023). -/
def Sys.blockWords (s : Sys) (i : Issuer) (a : Nat) : Option (List Word) :=
  if a % 32 != 0 then none
  else
    let pa : Option Nat :=
      if i.world then (if a < memSize then some a else none)
      else match s.dxtXlate i.x.part a 32 false with
        | .ok false b => some b
        | _ => none
    match pa with
    | none => none
    | some b => if s.poisoned b then none else some ((List.range 8).map (fun n => s.rdW (b + 4 * n)))

/-- Campion reads a creation block. -/
def Sys.blockRead (i : Issuer) (a : Nat) (s : Sys) : Sys :=
  if i.world then s.fetchFor 6 a 32
  else match s.dxtXlate i.x.part a 32 false with
    | .ok false b => (s.dxtRead 6 i.x.part a).fetchFor 6 b 32
    | _ => s

/-- The context that a creation block describes (R368). -/
def blockCtx (i : Issuer) (w : List Word) (tid pid sspC : Word) (tmpl : Tbl DWord) (cust : Bool) : Ctx :=
  let g (n : Nat) : Word := (w[n]?).getD 0
  let st : Word := mkw 36 [(0, cust.toNat), (12, fld (g 1) 1 12)]
  let gr : Tbl Word := tset (tset [] 5 (g 5)) 30 (g 4)
  let wo : WorldRegs := if cust then {}
    else { exts := i.x.wo.exts, rsb := i.x.wo.rsb, rsl := i.x.wo.rsl, rsp := i.x.wo.rsp }
  { g := gr, pc := g 0, status := st, wo := wo, wc := { exts := tmpl }, sspC := sspC, taskid := tid, partid := pid,
    sspO := if cust then 0 else g 2, xbaseO := if cust then 0 else g 3 &&& ~~~1 }

/-- R368, R457 and R390 on a creation block: its own rules, without the index and the quotas. -/
def Sys.blockOk (s : Sys) (c : Nat) (i : Issuer) (w : List Word) : Bool :=
  let g (n : Nat) : Word := (w[n]?).getD 0
  let w6 := g 6
  let cust := kbit w6 3
  let hk := kbit w6 4
  let nn := kbit w6 25
  let p := fld w6 26 35
  !kbit (g 0) 35 && fld (g 1) 10 12 ≤ 4 && g 7 = 0 && fld w6 5 24 = 0 &&
  (if i.world then
     (!nn || (p = 0 && cust)) && (nn || ((s.part p).st != 0 && (s.part p).st != 5)) &&
     (!hk || (cust && nn && (s.task c 0).state = 0))
   else !cust && !nn && p = 0)

/-- CREATE: the result status, the TASKID returned, and the effect. -/
def Sys.campCreate (c : Nat) (i : Issuer) (w1 : Word) (s : Sys) : Nat × Word × Sys :=
  if !i.sup || (!i.world && !(s.part i.x.part).aff c) then (21, 0, s)
  else
    let s := s.blockRead i w1.toNat
    match s.blockWords i w1.toNat with
    | none => (23, 0, s)
    | some w =>
      let w6 : Word := (w[6]?).getD 0
      if !i.world && kbit w6 4 then (21, 0, s)
      else if !s.blockOk c i w then (23, 0, s)
      else
        let hk := kbit w6 4
        let nn := i.world && kbit w6 25
        let p := if i.world then fld w6 26 35 else i.x.part
        match (if hk then some 0 else s.freeIndex c) with
        | none => (22, 0, s)
        | some n =>
          if !nn && (s.part p).taskq ≤ s.taskCount c p then (26, 0, s)
          else
            let gen := s.nextGen c n
            let id := taskId c n gen
            let cust := i.world && kbit w6 3
            let ctx := blockCtx i w id (partIdOf nn p) (s.taskStack c n) (tblOf (s.template c)) cust
            let t : Task := { state := 1, pri := fld w6 0 2, part := p, noPart := nn, w := cust, gen := gen,
                              init := some ctx }
            let s := (s.setTask c n t).becomeReady c n
            (0, id, if hk then s.releaseNotices c else s)

def Sys.campReady (c : Nat) (i : Issuer) (w1 : Word) (s : Sys) : Nat × Word × Sys :=
  if !i.sup then (21, 0, s)
  else match s.findTask c w1 with
    | none => (20, 0, s)
    | some n => if mayName i (s.task c n) then (0, 0, s.evTask c n .ready) else (21, 0, s)

def Sys.campCancel (c : Nat) (i : Issuer) (w1 : Word) (race : Bool) (s : Sys) : Nat × Word × Sys :=
  if !i.sup then (21, 0, s)
  else match s.findTask c w1 with
    | none => (20, 0, s)
    | some n =>
      if mayName i (s.task c n) && (i.world || !(s.task c n).w) then
        let s := if race then s.modCamp c (fun cp => { cp with rcDrop := sat 262143 (cp.rcDrop + 1) }) else s
        (0, 0, s.cancelTask c n)
      else (21, 0, s)

def Sys.campSetpri (c : Nat) (i : Issuer) (w1 : Word) (arg : Nat) (s : Sys) : Nat × Word × Sys :=
  if 8 ≤ arg then (25, 0, s)
  else if !i.sup then (21, 0, s)
  else match s.findTask c w1 with
    | none => (20, 0, s)
    | some n =>
      let t := s.task c n
      if mayName i t then
        let s := s.setTask c n { t with pri := arg }
        let q := (s.campion c).ready
        (0, 0, if q.contains n then (s.modCamp c (fun cp => { cp with ready := nerase q n ++ [n] })).pump c else s)
      else (21, 0, s)

/-- The issuer's own task, in the cluster of its core. -/
def Sys.modOwn (i : Issuer) (f : Task → Task) (s : Sys) : Sys :=
  match s.findTask (clusterOf i.k) i.x.taskid with
  | some n => s.modTask (clusterOf i.k) n f
  | none => s

def Sys.campTimer (i : Issuer) (w1 : Word) (s : Sys) : Nat × Word × Sys :=
  (0, 0, s.modOwn i (fun t => { t with tdl := if w1 = 0 then 0 else s.timeUs + w1.toNat }))

def Sys.campEvint (i : Issuer) (w1 : Word) (arg : Nat) (s : Sys) : Nat × Word × Sys :=
  if w1 != 0 then (25, 0, s) else (0, 0, s.modOwn i (fun t => { t with evmask := arg }))

def Sys.campAddarea (c : Nat) (i : Issuer) (w1 : Word) (s : Sys) : Nat × Word × Sys :=
  if !(i.world && i.sup) then (21, 0, s)
  else
    let a := w1.toNat
    if a % 1024 != 0 || !s.isCustody a || !s.isCustody (a + 1023) then (24, 0, s)
    else (0, 0, (s.pushArea c a).lowCheck c)

/-- Records a command's result for its issuer (R364). -/
def Sys.campDone (c : Nat) (i : Issuer) (r : Nat × Word × Sys) : Sys :=
  r.2.2.modCamp c (fun cp => { cp with results := tset cp.results i.x.taskid.toNat (r.1, r.2.1) })

/-- Runs the command whose words 0 and 1 an SDW stored (R365) (DESIGN CHOICE, log 14). -/
def Sys.campCommand (c : Nat) (i : Issuer) (w0 w1 : Word) (s : Sys) : Sys :=
  let op := fld w0 0 5
  let arg := fld w0 28 35
  Sys.campDone c i
    (if fld w0 6 27 != 0 || (arg != 0 && op != 3 && op != 5) then (25, 0, s)
     else match op with
       | 0 => s.campCreate c i w1
       | 1 => s.campReady c i w1
       | 2 => s.campCancel c i w1 false
       | 3 => s.campSetpri c i w1 arg
       | 4 => s.campTimer i w1
       | 5 => s.campEvint i w1 arg
       | 6 => s.campAddarea c i w1
       | _ => (25, 0, s))

/-- The last result of the issuing context, as the LDW of port + 8 returns it. -/
def Sys.campResult (s : Sys) (c : Nat) (x : Ctx) : DWord :=
  let r := tget (0, (0 : Word)) (s.campion c).results x.taskid.toNat
  mkd (mkw 36 [(35, r.1)]) r.2

end Sys2Proof.Machine
end

