-- ==== Sys2Proof/Machine/Store.lean ====
section
/-! DEFINITION. The store queue (09 R299-R301, 12 R407, 13 R433-R435): what a commit does, draining, and what a load
sees of the queue and of I/O space. -/

namespace Sys2Proof.Machine

/-! ## I/O space (R398, R364, R474, R643) -/

/-- The cluster whose command port covers an address, and the offset in it. -/
def Sys.portAt (s : Sys) (pa : Nat) : Option (Nat × Nat) :=
  match firstBelow 12 (fun c => match s.img.ports[c]? with
    | some b => b ≤ pa && pa < b + 64
    | none => false) with
  | some c => some (c, pa - (s.img.ports[c]?).getD 0)
  | none => none

/-- The quadrant whose engine window covers an address, and the offset in it. -/
def Sys.enginePortAt (s : Sys) (pa : Nat) : Option (Nat × Nat) :=
  match firstBelow 4 (fun q => match s.img.dmaPorts[q]? with
    | some b => b ≤ pa && pa < b + 0x2000
    | none => false) with
  | some q => some (q, pa - (s.img.dmaPorts[q]?).getD 0)
  | none => none

/-- A committed store to I/O space; only an SDW of an issuer is a command of a port (R364). -/
def Sys.ioWrite (i : Option Issuer) (pa : Nat) (l : List Syl) (s : Sys) : Sys :=
  match s.portAt pa with
  | some (c, o) => match i with
    | some i => if o = 0 then s.campCommand c i (dw0 (dwordOf l)) (dw1 (dwordOf l)) else s
    | none => s
  | none =>
    match s.enginePortAt pa with
    | some (q, o) => if l.length = 4 then s.dmaWriteReg q o (wordOf l) else s
    | none => s

/-- A load from I/O space by context `x`; only an LDW reads a port's result (R364). -/
def Sys.ioRead (s : Sys) (x : Ctx) (pa n : Nat) (ldw : Bool) : List Syl :=
  match s.portAt pa with
  | some (c, o) => if o = 8 && ldw then sylsD (s.campResult c x) else List.replicate n 0
  | none =>
    match s.enginePortAt pa with
    | some (q, o) => if n = 4 then sylsW (BitVec.ofNat 36 (s.dmaReg q o)) else List.replicate n 0
    | none => List.replicate n 0

/-! ## Commit -/

/-- The dirty mark of a committing store (R407): compare-and-set against the value the walk read, with one fresh walk
when the leaf has changed; false while the walk has to wait. -/
def Sys.commitMarks (k : Nat) (x : Ctx) (e : StoreEnt) (s : Sys) : Bool × Sys :=
  match e.leaf with
  | none => (true, s)
  | some l =>
    if s.rdW l.1 = dw0 l.2 then (true, s.setMarks l.1 3)
    else match findExt (x.world e.world).exts e.va with
      | none => (true, s)
      | some (n, d) =>
        if !extPG d then (true, s)
        else
          match s.walkVa k e.bank x e.world n d e.va with
          | (.ok base size leaf ups, s) =>
            let t := mkTlb e.bank x e.world n d e.va base size leaf
            if base + (e.va - extVBASE d * 4096) % size = e.pa && t.wr && (e.sup || t.us) then
              if s.lineLocked leaf.1 then (false, s)
              else (true, (s.setMarks leaf.1 3).cacheWalk k false (fun u => u.covers e.bank e.world n e.va) t
                (upEnts e.bank x e.world n d e.va ups))
            else (true, s)
          | (.busy ln, s) => (false, s.coreWaits k false ln)
          | (_, s) => (true, s)

/-- The issuer of a command: the bank's context while it is still the one that stored, else what it was then (R364). -/
def Sys.storeIssuer (s : Sys) (k : Nat) (e : StoreEnt) : Option Issuer :=
  e.sdw.map (fun x0 =>
    let x := tget {} (s.core k).banks e.bank
    { k := k, x := if x.taskid = x0.taskid then x else x0, world := e.world, sup := e.sup })

/-- A store of a partition that is being reset writes nothing (R463) (DESIGN CHOICE, log 25). -/
def Sys.voided (s : Sys) (e : StoreEnt) : Bool := e.part.any (fun p => (s.part p).st = 4)

/-- The effect of the oldest store of core `k`, which the queue no longer holds. -/
def Sys.commitEnt (k : Nat) (e : StoreEnt) (s : Sys) : Sys :=
  if memSize ≤ e.pa then s.ioWrite (s.storeIssuer k e) e.pa e.data
  else if s.voided e then s
  else
    let s := (s.commitMarks k (tget {} (s.core k).banks e.bank) e).2.touchKey k e.pa true
    (s.storeSpan k false e.pa e.data).drainAll

/-- Whether a store has to wait at its commit: for a line that a Balance Unit has locked, its own or its leaf's (R262, R644), or
for one in state T, for which it then asks (R429). -/
def Sys.commitWaits (k : Nat) (e : StoreEnt) (s : Sys) : Bool × Sys :=
  if memSize ≤ e.pa || s.voided e then (false, s)
  else if s.spanLocked e.pa e.data.length || e.leaf.any (fun l => s.lineLocked l.1) then (true, s)
  else match s.blockedLine k true e.pa e.data.length with
    | some ln => (true, s.coreWaits k true ln)
    | none =>
      let r := s.commitMarks k (tget {} (s.core k).banks e.bank) e
      if r.1 then (false, s) else (true, r.2)

/-- Commits the oldest store, or leaves it to wait. -/
def Sys.commitOne (k : Nat) (s : Sys) : Sys :=
  match (s.core k).sq with
  | [] => s
  | e :: es =>
    let r := s.commitWaits k e
    if r.1 then r.2.modCore k (fun c => { c with sq := { e with retry := true } :: es })
    else (s.modCore k (fun c => { c with sq := es, ivSt := c.ivSt - 1 })).commitEnt k e

/-- Commits stores from the oldest on, at most `n`. -/
def Sys.commitN (k : Nat) : Nat → Sys → Sys
  | 0, s => s
  | n + 1, s => Sys.commitN k n (s.commitOne k)

def Sys.drainSq (k : Nat) (s : Sys) : Sys := s.commitN k (s.core k).sq.length

/-- Drains the queue, or waits when a store cannot commit (DEDUCED, log 36). -/
def drain (k : Nat) : M Unit := do
  upd (fun s => s.drainSq k)
  let s ← get
  if !(s.core k).sq.isEmpty then throw .stay

/-- Puts a retired store into the queue, which holds 48 (R301). -/
def enqueueStore (k : Nat) (e : StoreEnt) : M Unit := do
  let s ← get
  if 48 ≤ (s.core k).sq.length then
    upd (fun s => s.commitOne k)
    let s ← get
    if 48 ≤ (s.core k).sq.length then throw .stay
  upd (fun s => s.modCore k (fun c => { c with sq := c.sq ++ [e] }))

/-! ## What a load sees -/

def StoreEnt.overlaps (e : StoreEnt) (a n : Nat) : Bool := a < e.pa + e.data.length && e.pa < a + n
def StoreEnt.holds (e : StoreEnt) (a n : Nat) : Bool := e.pa ≤ a && a + n ≤ e.pa + e.data.length

/-- The `n` syllables of memory at `a`, through the core's caches (R422), once the home agent can give their lines (R429); poison
is consumed (R446). -/
def readMem (k : Nat) (fetch : Bool) (a n va acc : Nat) : M (List Syl) := do
  let s ← get
  match s.blockedLine k false a n with
  | some ln =>
    upd (fun s => s.coreWaits k false ln)
    throw .stay
  | none =>
    upd (fun s => s.useSpan k fetch a n)
    let s ← get
    match s.poisonAt k fetch a n with
    | some i => poisonEx acc (va + i)
    | none => pure (s.rd a n)

/-- Commits the stores of core `k` up to the youngest that overlaps, or waits when one of them cannot (R301). -/
def drainFor (k a n : Nat) : M Unit := do
  upd (fun s =>
    let q := (s.core k).sq
    s.commitN k (q.length - q.reverse.findIdx (fun e => e.overlaps a n)))
  let s ← get
  if (s.core k).sq.any (fun e => e.overlaps a n) then throw .stay

/-- The `n` syllables at physical address `a` for a load: from the one store that covers them, or from memory once
every store that overlaps has committed (R301). -/
def loadPhys (k : Nat) (x : Ctx) (a n va acc : Nat) (ldw : Bool) : M (List Syl) := do
  if memSize ≤ a then
    drain k
    let s ← get
    pure (s.ioRead x a n ldw)
  else
    let s ← get
    match (s.core k).sq.reverse.find? (fun e => e.overlaps a n) with
    | some e =>
      if e.holds a n then pure ((e.data.drop (a - e.pa)).take n)
      else do
        drainFor k a n
        readMem k false a n va acc
    | none => readMem k false a n va acc

end Sys2Proof.Machine
end

