-- ==== Sys2Proof/Machine/Slots.lean ====
section
/-! DEFINITION. Tansy's work on core slots (01 R41-R49, 09 R325, 10 R351-R353): the lockup map, fencing and
substitution, heartbeats and self-tests. -/

namespace Sys2Proof.Machine

/-! ## The lockup map (R352, R353) -/

/-- TS_LKENTA of an entry, as a host value. -/
def lkEntA (e : LkEnt) : Nat :=
  mkh [(35, 1), (33, e.kind), (26, e.core), (22, e.slot), (18, e.cls), (10, e.code), (0, e.part)]

/-- LOCKUP_L is driven low while an entry is valid (R352). -/
def Sys.lockupLow (s : Sys) : Bool := !s.tansy.lk.isEmpty

/-- The module has joined the SCB (SC_STAT.ROLE other than 3). -/
def Sys.joined (s : Sys) : Bool := s.port.role != 3

/-- Puts a command into the queue of the SCB port. -/
def Sys.launch (c : BusMsg) (s : Sys) : Sys := { s with port := { s.port with out := s.port.out ++ [c] } }

/-- Records a lockup in the lowest free entry and broadcasts it, or sets OVF. -/
def Sys.recordLockup (e : LkEnt) (s : Sys) : Sys :=
  match firstBelow 16 (fun n => (tfind s.tansy.lk n).isNone) with
  | some n =>
    let s : Sys := Sys.msix 0 1 { s with tansy := { s.tansy with lk := tset s.tansy.lk n e } }
    if s.joined then s.launch (.notice 1 (BitVec.ofNat 36 (lkEntA e))) else s
  | none => { s with tansy := { s.tansy with ovf := true } }

/-- A W1C of TS_LKENTA.V of a valid entry. -/
def Sys.clearLockup (n : Nat) (s : Sys) : Sys :=
  if (tfind s.tansy.lk n).isSome then Sys.msix 0 1 { s with tansy := { s.tansy with lk := terase s.tansy.lk n } } else s
def Sys.clearOvf (s : Sys) : Sys := { s with tansy := { s.tansy with ovf := false } }

/-! ## Slots (R18, R44-R49) -/

def slotKey (c sl : Nat) : Nat := 9 * c + sl
def Sys.slot (s : Sys) (n : Nat) : Slot := tget {} s.tansy.slots n
def Sys.setSlot (n : Nat) (v : Slot) (s : Sys) : Sys :=
  { s with tansy := { s.tansy with slots := tset s.tansy.slots n v } }

/-- The spare slot of a cluster. -/
def Sys.spareOf (s : Sys) (c : Nat) : Option Nat :=
  (firstBelow 9 (fun i => (s.slot (slotKey c i)).st = .spare)).map (fun i => slotKey c i)

/-- The lines of a slot's caches leave them; the L3 has what was dirty (R423). -/
def Sys.dropCaches (k : Nat) (s : Sys) : Sys :=
  let c := s.core k
  (c.l1d ++ c.l2).foldl (fun s e => e.2.lines.foldl (fun s e => s.dropCore k e.2.line) s)
    (s.setCore k { c with l1i := [] })

/-- A response to a fenced slot is discarded and counted (R29, R44). -/
def Sys.discarded (s : Sys) : Sys := { s with tansy := { s.tansy with discards := s.tansy.discards + 1 } }

/-- A slot is released under a logical number (R44 step 4, R45): the core's own registers take their values at core
release, and the predictor and the caches hold nothing; the banks are in the bank store (DEDUCED, log 17). -/
def Sys.release (k n : Nat) (s : Sys) : Sys :=
  (s.setSlot n { s.slot n with st := .active k, beat := false, missed := 0 }).modCore k (fun c =>
    { c with slot := some n, stopped := false, xbaseC := s.img.xbaseC, divm := (s.slot n).divBad || 3 ≤ (s.slot n).divFails,
             tlbI := [], tlbD := [], tlb2 := [], walkc := [], pred := [], l1i := [], l1d := [], l2 := [], waitc := none, remote := none,
             entry := none, ivSt := 0 })

/-- Blows a slot's retirement fuse (R45). -/
def Sys.retireSlot (n : Nat) (s : Sys) : Sys :=
  { (s.setSlot n { s.slot n with st := .retired }) with
    tansy := { (s.setSlot n { s.slot n with st := .retired }).tansy with retired := ninsert s.tansy.retired n } }

/-- Stores that a failed slot still held: how many had reached the mesh before the fence is not stated, so a free number of
the oldest commit, and the port discards the rest of the context that ran (R44 step 1). Stores of the other contexts are
not lost (R40), nor any after 710 (R326) (DESIGN CHOICE, log 16). -/
def Sys.fenceStores (k n : Nat) (all : Bool) (s : Sys) : Sys :=
  let len := (s.core k).sq.length
  if all then s.drainSq k
  else if len = 0 then s
  else
    let f := s.fresh 6
    let s := f.2.commitN k (f.1.toNat % (len + 1))
    let kept := (s.core k).sq.filter (fun e => some e.bank != (s.core k).cur)
    let sl := s.slot n
    let s := s.setSlot n { sl with drops := sl.drops + ((s.core k).sq.length - kept.length) }
    (s.modCore k (fun c => { c with sq := kept, ivSt := 0 })).drainSq k

/-- The mesh port of a fenced slot acknowledges what has reached it (R411). -/
def Sys.ackAll (k : Nat) (s : Sys) : Sys :=
  (s.core k).invq.foldl (fun s v => s.modCore v.src (fun c =>
    { c with acks := c.acks ++ [{ core := k, slot := v.slot, task := v.task }] })) (s.modCore k (fun c => { c with invq := [] }))

/-- Steps 1 to 5 of R44, or R47 without a spare, or R325 for 710: `status` is 720, 721 or 710 (DEDUCED, log 17). A substitution is
counted at the slot that failed, when a spare takes its place (DESIGN CHOICE, log 17). -/
def Sys.substitute (k status : Nat) (ent : LkEnt) (s : Sys) : Sys :=
  match (s.core k).slot with
  | none => s
  | some n =>
    let c := clusterOf k
    let s := s.recordLockup { ent with slot := n % 9 }
    let s := ((s.fenceStores k n (status = 710)).dropCaches k).ackAll k
    let s := s.setSlot n { s.slot n with
      substs := (s.slot n).substs + (s.spareOf c).toList.length
      owed := (s.slot n).owed ++ ((s.core k).remote.map (fun r => r.tag)).toList }
    let s := if status = 710 then s.retireSlot n else s.setSlot n { s.slot n with st := .testing }
    let sp := s.spareOf c
    let s := match s.runTask k with
      | some i => s.taskFault c i status
      | none => s
    let s := s.modCore k (fun co => { co with cur := none, stopped := false, slot := none, waitc := none, remote := none,
                                               entry := none, tlbI := [], tlbD := [], tlb2 := [], walkc := [], ivSt := 0 })
    let s := match sp with
      | some m => { (s.release k m) with tansy := { (s.release k m).tansy with substs := sat 0xffffffff (s.tansy.substs + 1) } }
      | none => s
    (s.unplace c k).pump c

/-! ## Heartbeats (R41, R42, R49) -/

def Sys.heartbeat (n : Nat) (s : Sys) : Sys :=
  match (s.slot n).st with
  | .active _ => s.setSlot n { s.slot n with beat := true }
  | _ => s

/-- The tick's check of one logical core: alive, missed, or dead at the third missed tick. -/
def Sys.tickCore (s : Sys) (k : Nat) : Sys :=
  match (s.core k).slot with
  | none => s
  | some n =>
    let v := s.slot n
    if v.st != .active k then s
    else if v.beat then s.setSlot n { v with beat := false, missed := 0 }
    else if v.missed < 2 then s.setSlot n { v with missed := v.missed + 1 }
    else
      let part := if (s.ctx k).noPart then 0 else (s.ctx k).part
      (s.setSlot n { v with missed := 3 }).substitute k 721
        { kind := 1, core := k, slot := 0, cls := 0, code := 0, part := part, pc := (s.core k).lastPc }

def Sys.tick (s : Sys) : Sys := (List.range 96).foldl (fun s k => s.tickCore k) s

/-- The end of a slot's self-test (R45, R46). -/
def Sys.selfTestEnd (c sl : Nat) (pass : Bool) (s : Sys) : Sys :=
  let n := slotKey c sl
  if (s.slot n).st != .testing then s
  else if !pass then s.retireSlot n
  else match (coresOf c).find? (fun k => (s.core k).slot.isNone) with
    | some k => (s.release k n).pump c
    | none => s.setSlot n { s.slot n with st := .spare, beat := false, missed := 0 }

end Sys2Proof.Machine
end

