-- ==== Sys2Proof/Machine/Ops.lean ====
section
/-! DEFINITION. The shared operations of a core: registers, loads and stores, lazy unit state (11 R391-R394), taking an
exception, interrupt or machine check (10 R331, R350), the return from one (10 R345, R346), retirement with the loop
end (04 R142-R146) and the mode shadow (03 R98-R103), and the frame of every instruction. -/

namespace Sys2Proof.Machine

/-! ## General registers (R83, R84) -/

def Ctx.rdG (x : Ctx) (r : Nat) : Word := if r = 0 then 0 else tget 0 x.g r
def Ctx.wrG (x : Ctx) (r : Nat) (v : Word) : Ctx := if r = 0 then x else { x with g := tset x.g r v }
def Ctx.rdP (x : Ctx) (r : Nat) : DWord := mkd (x.rdG r) (x.rdG (r + 1))
def Ctx.wrP (x : Ctx) (r : Nat) (v : DWord) : Ctx := (x.wrG r (dw0 v)).wrG (r + 1) (dw1 v)

def ctxM (k : Nat) : M Ctx := do return (← get).ctx k
def modX (k : Nat) (f : Ctx → Ctx) : M Unit := upd (fun s => s.modCtx k f)
def rG (k : Nat) (r : Reg) : M Word := do return (← ctxM k).rdG r
def wG (k : Nat) (r : Reg) (v : Word) : M Unit := modX k (fun x => x.wrG r v)
def rP (k : Nat) (r : Reg) : M DWord := do return (← ctxM k).rdP r
def wP (k : Nat) (r : Reg) (v : DWord) : M Unit := modX k (fun x => x.wrP r v)

/-- A 72-bit operand names an even register (R84). -/
def needEven (r : Reg) : M Unit := if r.val % 2 = 1 then illegal else pure ()
/-- A float register field is below 16 (R125). -/
def needFR (r : Reg) : M Unit := if 16 ≤ r.val then illegal else pure ()
/-- The core cycles of a rule with an exact count (DESIGN CHOICE, logs 13 and 28). -/
def tick (k n : Nat) : M Unit := upd (fun s => s.modCore k (fun c => { c with cyc := c.cyc + n }))

def Sys.bankOf (s : Sys) (k : Nat) : Nat := (s.core k).cur.getD 0

/-! ## Data accesses (R53, R55, R132, R421) -/

/-- Alignment and range of an address (R151 row 5, R55). -/
def checkAddr (acc n : Nat) (a : Int) : M Nat := do
  if a % (n : Int) != 0 then misaligned acc (va36 a)
  if a < 0 || (vaTop : Int) ≤ a then raise 2 1 acc (va36 a)
  pure a.toNat

/-- An aligned load of `n` syllables; `ldw` marks an LDW, which alone reads a port's result (R364) (DEDUCED, log 21). -/
def loadAs (k n : Nat) (a : Int) (ldw : Bool) : M (List Syl) := do
  let va ← checkAddr 2 n a
  let s ← get
  let x := s.ctx k
  let r ← xlate k (s.bankOf k) x x.status 2 va false
  loadPhys k x r.pa n va 2 ldw

def loadN (k n : Nat) (a : Int) : M (List Syl) := loadAs k n a false

/-- An aligned store, which waits in the store queue (R299); `sdw` marks an SDW, which alone is a command of a port (R364)
(DEDUCED, log 21). -/
def storeAs (k : Nat) (a : Int) (l : List Syl) (sdw : Bool) : M Unit := do
  let va ← checkAddr 3 l.length a
  let s ← get
  let x := s.ctx k
  let r ← xlate k (s.bankOf k) x x.status 3 va false
  enqueueStore k { pa := r.pa, va := va, data := l, bank := s.bankOf k, world := x.custody, sup := x.sup, leaf := r.leaf,
                   sdw := if sdw then some x else none, part := x.owner }

def storeN (k : Nat) (a : Int) (l : List Syl) : M Unit := storeAs k a l false

def loadW (k : Nat) (a : Int) : M Word := do return wordOf (← loadN k 4 a)
def loadD (k : Nat) (a : Int) : M DWord := do return dwordOf (← loadN k 8 a)

/-! ## Lazy unit state (R391-R394) -/

/-- Syllables of a task's lazy area from `o` on. -/
def Sys.lazyAddr (s : Sys) (id o : Nat) : Option Nat :=
  let w : Word := BitVec.ofNat 36 id
  (s.entryAddr (taskClus w) (taskIdx w)).map (fun a => a + o)

/-- Writes FR0-FR15 and ACC into the owner's lazy area. -/
def Sys.saveF (u : FUnit) (s : Sys) : Sys :=
  match u.owner with
  | none => s
  | some o => match s.lazyAddr o 64 with
    | none => s
    | some a => s.wr a (((List.range 16).flatMap (fun i => sylsD (tget 0 u.fr i))) ++ sylsD u.acc)

/-- Writes DRS, DACC and the held divide state; the content of syllables 256-383 is indeterminate (R393). -/
def Sys.saveD (u : DUnit) (s : Sys) : Sys :=
  match u.owner with
  | none => s
  | some o =>
    let w : Word := BitVec.ofNat 36 o
    let s := s.modTask (taskClus w) (taskIdx w) (fun t => { t with held := u.held })
    match s.lazyAddr o 0 with
    | none => s
    | some a =>
      (((s.wrW (a + 208) u.drs).wrOctets (a + 216)
        (packedOf 16 u.dacc.natAbs (decide (u.dacc < 0))))).wrFree (a + 256) 128

/-- The float unit belongs to the running task: the owner's state is written back and the task's own is loaded, zeros
when it has never used the unit. A poisoned lazy area faults the task (R448). -/
def ownF (k : Nat) : M Unit := do
  let s ← get
  let x := s.ctx k
  let id := x.taskid.toNat
  let u := (s.core k).fu
  if u.owner != some id then
    upd (fun s => s.saveF u)
    let s ← get
    let c := taskClus x.taskid
    let i := taskIdx x.taskid
    tick k 40
    match s.lazyAddr id 64 with
    | some a =>
      if (s.task c i).usedF then upd (fun s => s.fetchFor 0 a 136)
      let s ← get
      if (s.task c i).usedF && s.poisonedSpan a 136 then
        upd (fun s => (s.modCore k (fun co => { co with fu := {} })).faultRunning k 701)
        throw .gone
      let fr := if (s.task c i).usedF then tblOf ((List.range 16).map (fun j => s.rdD (a + 8 * j))) else []
      let acc : DWord := if (s.task c i).usedF then s.rdD (a + 128) else 0
      upd (fun s => (s.modTask c i (fun t => { t with usedF := true })).modCore k (fun co =>
        { co with fu := { owner := some id, fr := fr, acc := acc } }))
    | none => upd (fun s => s.modCore k (fun co => { co with fu := { owner := some id } }))

/-- The decimal unit belongs to the running task (R391). -/
def ownD (k : Nat) : M Unit := do
  let s ← get
  let x := s.ctx k
  let id := x.taskid.toNat
  let u := (s.core k).du
  if u.owner != some id then
    upd (fun s => s.saveD u)
    let s ← get
    let c := taskClus x.taskid
    let i := taskIdx x.taskid
    tick k 56
    match s.lazyAddr id 0 with
    | some a =>
      if (s.task c i).usedD then upd (fun s => s.fetchFor 0 (a + 192) 192)
      let s ← get
      if (s.task c i).usedD && s.poisonedSpan (a + 192) 192 then
        upd (fun s => (s.modCore k (fun co => { co with du := {} })).faultRunning k 701)
        throw .gone
      let t := s.task c i
      let drs : Word := if t.usedD then s.rdW (a + 208) else 0
      let dacc := if t.usedD then packedVal ((s.rd (a + 216) 16).map octet) else 0
      upd (fun s => (s.modTask c i (fun t => { t with usedD := true })).modCore k (fun co =>
        { co with du := { owner := some id, drs := drs, dacc := dacc, held := if t.usedD then t.held else none } }))
    | none => upd (fun s => s.modCore k (fun co => { co with du := { owner := some id } }))

def getF (k : Nat) : M FUnit := do return ((← get).core k).fu
def setF (k : Nat) (f : FUnit → FUnit) : M Unit := upd (fun s => s.modCore k (fun c => { c with fu := f c.fu }))
def getD' (k : Nat) : M DUnit := do return ((← get).core k).du
def setD (k : Nat) (f : DUnit → DUnit) : M Unit := upd (fun s => s.modCore k (fun c => { c with du := f c.du }))

/-! ## The mode shadow (R97-R103) -/

/-- The pending bits 2-12 over the effective STATUS (DEDUCED, log 11). -/
def applyPend (st pend : Word) : Word := setFld st 2 12 (fld pend 2 12)

/-- A shadow whose count has run out becomes effective. -/
def Ctx.closeDue (x : Ctx) : Ctx :=
  match x.shadow with
  | some sh => if sh.count = 0 then { x with status := applyPend x.status sh.pend, shadow := none } else x
  | none => x

def Sys.closeShadow (k : Nat) (s : Sys) : Sys := s.modCtx k Ctx.closeDue

/-! ## Taking an exception, interrupt or machine check (R329-R332, R350) -/

def stZeroSHA (st : Word) : Word := setBit st 19 false

/-- The STATUS that an entry into world `w` establishes (R331). -/
def entryStatus (old : Word) (w : Bool) : Word :=
  mkw 36 [(0, w.toNat), (1, 1), (8, (stSUBN old).toNat), (9, (stDOVT old).toNat), (12, stFRM old)]

/-- DESIGN CHOICE, log 32. -/
def causeWord (e : Exc) : Word := mkw 36 [(3, e.cls), (11, e.code), (12, e.asyn.toNat), (14, e.acc), (35, e.info)]

/-- The world that takes an entry (R329); class 11 names its own. -/
def entryWorld (e : Exc) (cur : Bool) : Bool :=
  if e.cls = 10 || e.cls = 14 then true
  else if e.cls = 9 then cur || 3072 ≤ e.info
  else cur

def Ctx.ssp (x : Ctx) (w : Bool) : Word := if w then x.sspC else x.sspO
def Ctx.setSsp (x : Ctx) (w : Bool) (v : Word) : Ctx := if w then { x with sspC := v } else { x with sspO := v }

/-- The words of the frame (R331, R102). -/
def frameWords (x : Ctx) (e : Exc) (pc : Word) : List Word :=
  let old := stZeroSHA x.status
  [pc, old, causeWord e, BitVec.ofNat 36 e.faddr,
   (match x.shadow with
    | some sh => sh.pend
    | none => old),
   (match x.shadow with
    | some sh => mkw 36 [(0, 1), (35, sh.count)]
    | none => 0),
   x.cur.rsp, x.rdG 30]

/-- XBASE of the target world. -/
def Sys.xbase (s : Sys) (k : Nat) (x : Ctx) (w : Bool) : Word := if w then (s.core k).xbaseC else x.xbaseO

/-- The context after an entry (R331): the target world's SSP, CAUSE and FADDR, STATUS, and the PC. A class 10 entry
remembers its frame, whose XRET ends the overflow (R387). -/
def Ctx.entered (x : Ctx) (e : Exc) (w : Bool) (xb : Word) : Ctx :=
  let r := x.world w
  let x := (x.setSsp w (x.ssp w - 32)).setWorld w { r with cause := causeWord e, faddr := BitVec.ofNat 36 e.faddr }
  let x := if e.cls = 10 then { x with ovfl := some (x.ssp w) } else x
  { x with status := entryStatus (stZeroSHA x.status) w, shadow := none, pc := xb, shield := 0, hold := false }

/-- An entry's checks and writes; a check that fails is an exception here, which the caller makes a double fault. A stack pointer
below 32 wraps, so that its frame lies at the top of the address space (DESIGN CHOICE, logs 9 and 10). -/
def enterM (k : Nat) (e : Exc) (w : Bool) (pc : Word) : M Unit := do
  let s ← get
  let b := s.bankOf k
  let x := s.ctx k
  let sp := x.ssp w - 32
  let st := entryStatus (stZeroSHA x.status) w
  if sp.toNat % 32 != 0 then misaligned 3 sp.toNat
  let r ← xlate k b x st 3 sp.toNat true
  let xb := s.xbase k x w
  let f ← xlate k b x st 1 xb.toNat true
  let s ← get
  if (octet ((s.rd f.pa 1).getD 0 0)).toNat ≥ 128 && mark ((s.rd f.pa 1).getD 0 0) then
    if vaTop ≤ xb.toNat + 2 then raise 2 1 1 0
    let _ ← xlate k b x st 1 (xb.toNat + 2) true
  if 44 < (s.core k).sq.length then
    upd (fun s => s.drainSq k)
    let s ← get
    if 44 < (s.core k).sq.length then throw .stay
  let ws := frameWords x e pc
  let put (i : Nat) : M Unit :=
    enqueueStore k { pa := r.pa + 8 * i, va := sp.toNat + 8 * i, bank := b, world := w, sup := true, leaf := none, part := x.owner,
                     data := sylsW ((ws[2 * i]?).getD 0) ++ sylsW ((ws[2 * i + 1]?).getD 0) }
  put 0
  put 1
  put 2
  put 3
  modX k (fun x => x.entered e w xb)

/-- Double fault: the core stops, is recorded, and is replaced (R350, R351) (DESIGN CHOICE, log 9). -/
def Sys.doubleFault (k : Nat) (e : Exc) (pc : Word) (s : Sys) : Sys :=
  let x := s.ctx k
  s.substitute k 720 { kind := 0, core := k, slot := 0, cls := e.cls, code := e.code,
                       part := if x.noPart then 0 else x.part, pc := pc }

/-- Taking an entry: whether it is taken, a double fault included, or still waits for room in the store queue. -/
def Sys.enter? (k : Nat) (e : Exc) (w : Bool) (pc : Word) (s : Sys) : Bool × Sys :=
  match (enterM k e w pc).run s with
  | .ok _ s' => (true, s')
  | .error .stay s' => (false, s')
  | .error _ s' => (true, Sys.doubleFault k e pc { s with free := s'.free })

/-- Taking an entry: every exception, interrupt and machine check goes through here. One whose frame finds no room waits on
the core, which does nothing else until then (R331, R314) (DEDUCED, log 9). -/
def Sys.enter (k : Nat) (e : Exc) (w : Bool) (pc : Word) (s : Sys) : Sys :=
  let r := ((s.closeShadow k).modCore k (fun c => { c with strHold := none, useq := none })).enter? k e w pc
  if r.1 then r.2 else r.2.modCore k (fun c => { c with entry := some { exc := e, w := w, pc := pc } })

/-- A waiting entry of core `k` tries again. -/
def Sys.entryDone (k : Nat) (s : Sys) : Sys :=
  match (s.core k).entry with
  | some t => if (s.running k).isSome then
      (s.modCore k (fun c => { c with entry := none })).enter k t.exc t.w t.pc else s
  | none => s

/-! ## Interrupts (R311, R335, R337) -/

/-- The interrupt that would be recognised: world, code and INFO (DEDUCED, log 8). -/
def Ctx.irqDue (x : Ctx) : Option (Bool × Nat × Nat) :=
  if !stIE x.status || stSHA x.status then none
  else match x.irqC with
    | (c, i) :: _ => some (true, c, i)
    | [] =>
      if stW x.status then none
      else match x.irqO with
        | (c, i) :: _ => some (false, c, i)
        | [] => none

/-- Takes the pending interrupt that R337 puts first; the PC saved is the present one. -/
def Sys.takeIrq (k : Nat) (s : Sys) : Sys :=
  let x := s.ctx k
  match x.irqDue with
  | none => s
  | some (w, c, i) =>
    let s' := s.modCtx k (fun x => if w then { x with irqC := terase x.irqC c } else { x with irqO := terase x.irqO c })
    let r := (s'.modCore k (fun c => { c with strHold := none, useq := none, remote := none })).enter? k { cls := 11, code := c, info := i, asyn := true } w x.pc
    if r.1 then r.2 else s

/-- An exception of the instruction at the PC: an interrupt due at the same boundary goes first (R312, R347)
(DEDUCED, log 8). -/
def Sys.takeExc (k : Nat) (e : Exc) (s : Sys) : Sys :=
  let x := s.ctx k
  if e.cls != 14 && x.irqDue.isSome && !x.hold then s.takeIrq k
  else s.enter k e (entryWorld e x.custody) x.pc

/-! ## Retirement -/

/-- Where control goes after an instruction: on, on with a new LBEG or LEND (`lend`) that holds from the next instruction
(R92, R112), to a target (`clr`: R144 applies to it), where XRET has put it, or on and into the service entry of an SVC. -/
inductive Next where
  | seq
  | bound (lend : Bool) (v : Word)
  | jump (a : Nat) (clr : Bool)
  | returned
  | svc (code : Nat)
  deriving DecidableEq, Repr

/-- The loop end and the next PC of an instruction that does not transfer control (R142) (DEDUCED, log 10). An odd LBEG
becomes an odd PC, for which the spec has no check (DESIGN CHOICE, log 82). -/
def Ctx.advance (x : Ctx) (len : Nat) : Ctx :=
  let nx : Word := x.pc + BitVec.ofNat 36 len
  if stLA x.status && x.pc = x.lend then
    let r := stLREG x.status
    let n := x.rdG r - 1
    let x := x.wrG r n
    if n = 0 then { x with pc := nx, status := setFld x.status 13 18 0 } else { x with pc := x.lbeg }
  else { x with pc := nx }

/-- A transfer of control (R143, R144). -/
def Ctx.transfer (x : Ctx) (a : Nat) (clr : Bool) : Ctx :=
  let t : Word := BitVec.ofNat 36 a
  if clr && stLA x.status && (a < x.lbeg.toNat || x.lend.toNat < a)
  then { x with pc := t, status := setBit x.status 13 false } else { x with pc := t }

/-- What retirement does to the context: one shadowed instruction less (R99), and R347 ends (DEDUCED, log 22). -/
def Ctx.retired (x : Ctx) : Ctx :=
  { x with hold := false,
           shadow := match x.shadow with
             | some sh => some { sh with count := sh.count - 1 }
             | none => none }

/-- What a retirement leaves of the context. -/
def Ctx.retire (x : Ctx) (len : Nat) : Next → Ctx
  | .seq => (x.advance len).retired
  | .bound lend v =>
    let x := x.advance len
    (if lend then { x with lend := v } else { x with lbeg := v }).retired
  | .svc _ => (x.advance len).retired
  | .jump a clr => (x.transfer a clr).retired
  | .returned => { x.retired with hold := true }

/-- An instruction retires; an SVC then enters its service, unless an interrupt is due at that boundary, which goes first
and leaves the SVC to run again (R312, R337, R340) (DEDUCED, logs 8 and 22). -/
def Sys.retire (k len : Nat) (n : Next) (s : Sys) : Sys :=
  let x := s.ctx k
  let done := (s.modCtx k (fun x => x.retire len n)).modCore k (fun c => { c with lastPc := x.pc, useq := none })
  match n with
  | .svc code =>
    if x.irqDue.isSome && !x.hold then s.takeIrq k
    else
      let s := done.closeShadow k
      let e : Exc := { cls := 9, code := 0, info := code }
      s.enter k e (entryWorld e (s.ctx k).custody) (s.ctx k).pc
  | _ => done

/-! ## The frame of an instruction (R117, R145, R151) -/

/-- The fetch of one parcel: translation, key, poison; I/O space reads zero parcels (R643). An odd address is fetched as it
stands (DESIGN CHOICE, log 82). -/
def fetchParcel (k b : Nat) (x : Ctx) (va : Nat) : M Half := do
  if vaTop ≤ va then raise 2 1 1 (va % vaTop)
  let r ← xlate k b x x.status 1 va false
  if memSize ≤ r.pa then pure 0
  else
    let l ← readMem k true r.pa 2 va 1
    pure (BitVec.ofNat 18 (natOfSyls l))

/-- The word at the PC: one parcel, or two where the first begins a long instruction (R115, R116); the second half of a
short word is zero. -/
def fetchWord (k : Nat) : M Word := do
  let s ← get
  let x := s.ctx k
  let p ← fetchParcel k (s.bankOf k) x x.pc.toNat
  if isLong p then
    let q ← fetchParcel k (s.bankOf k) x (x.pc.toNat + 2)
    pure (p ++ q)
  else pure (p ++ (0 : Half))

/-- The fetch of instruction `i`. The word at the PC says which instruction the core runs, and with which operands: a reserved
value or a nonzero field that must be zero is illegal (R115-R124, R151), and where the word is another instruction's the
command is none that this core can send (DESIGN CHOICE, logs 4 and 6). `known` is false for SAVEU and SAVEL, to which the
spec gives no word; a long word that is no other instruction's stands for them (DESIGN CHOICE, log 27). -/
def fetch (a : Issue) (i : Instr) (known : Bool) : M Unit := do
  let w ← fetchWord a.core
  match decodeWord a w with
  | none => if known || !isLong (parcel0 w) then illegal
  | some j => if i != j then throw .other

/-- R145: an illegal loop end. -/
def badLoopEnd (x : Ctx) (len : Nat) : Bool :=
  let pc := x.pc.toNat
  let e := x.lend.toNat
  let b := x.lbeg.toNat
  stLA x.status &&
    ((pc = e && (e < b || 128 < e + len - b)) || (pc < e && e < pc + len))

def loopCheck (k len : Nat) : M Unit := do
  if badLoopEnd (← ctxM k) len then illegal

/-- The physical pieces of a destination, as far as it translates. -/
def reachSpan (k : Nat) : Nat → Nat → Nat → Sys → List (Nat × Nat)
  | 0, _, _, _ => []
  | fuel + 1, va, n, s =>
    if n = 0 || vaTop ≤ va then []
    else
      let x := s.ctx k
      match (xlate k (s.bankOf k) x x.status 3 va false).run s with
      | .ok r s' =>
        let here := 4096 - va % 4096
        let m := if n ≤ here then n else here
        (if r.pa < memSize then [(r.pa, m)] else []) ++ reachSpan k fuel (va + m) (n - m) s'
      | .error _ _ => []

/-- G1-G4 and the destination of a microcoded instruction become indeterminate (R326) (DESIGN CHOICE, log 16). -/
def Sys.microLoss (k : Nat) (dst : List (Nat × Nat)) (s : Sys) : Sys :=
  let f1 := s.fresh 36
  let f2 := f1.2.fresh 36
  let f3 := f2.2.fresh 36
  let f4 := f3.2.fresh 36
  let ps := dst.flatMap (fun d => reachSpan k (d.2 / 4096 + 2) d.1 d.2 s)
  let s := f4.2.modCtx k (fun x => (((x.wrG 1 f1.1).wrG 2 f2.1).wrG 3 f3.1).wrG 4 f4.1)
  ps.foldl (fun s p => s.wrFree p.1 p.2) s

/-- The physical address of the PC of core `k`. -/
def Sys.fetchAddr (s : Sys) (k : Nat) : Option Nat :=
  let x := s.ctx k
  match (xlate k (s.bankOf k) x x.status 1 x.pc.toNat false).run s with
  | .ok r _ => some r.pa
  | .error _ _ => none

/-- The core may issue: it runs a context, and neither a serialising instruction nor an entry of it waits
(DESIGN CHOICE, log 6). -/
def Sys.canIssue (s : Sys) (k : Nat) : Bool :=
  (s.running k).isSome && (s.core k).waitc.isNone && (s.core k).remote.isNone && (s.core k).entry.isNone

/-- An exception in `s'` gives the registers back as they were in `s0`. What the accesses before it did stands: the USED
bits and accessed marks of those that passed their checks (R407, R417), commits of older stores, cached translations
(DEDUCED, log 7). -/
def Sys.undo (k : Nat) (s0 s' : Sys) : Sys :=
  (s'.modCtx k (fun x => { s0.ctx k with irqO := x.irqO, irqC := x.irqC })).modCore k (fun c =>
    { c with fu := if c.fu.owner = (s0.core k).fu.owner then (s0.core k).fu else c.fu
             du := if c.du.owner = (s0.core k).du.owner then (s0.core k).du else c.du })

/-- What a stop does to the module. `s0` is the state at the start of the instruction (DEDUCED, log 7). -/
def Sys.stopped (k : Nat) (s0 : Sys) (st : Stop) (s' : Sys) : Sys :=
  match st with
  | .other => s0
  | .stay => s'
  | .gone => s'
  | .irq => s'.takeIrq k
  | .exc e keep => Sys.takeExc k e (if keep then s' else Sys.undo k s0 s')

/-- What a microcoded instruction that is cut off at its last safe point leaves: the state then, and the destination
syllables from there on (R326). -/
abbrev MicroEnd := Sys → Sys × List (Nat × Nat)

/-- A microcoded instruction with no destination in memory, and one with the destination `d`. -/
def microPlain : MicroEnd := fun s => (s, [])
def microDst (d : Sys → List (Nat × Nat)) : MicroEnd := fun s => (s, d s)

/-- Instruction `i`, of `len` syllables, without a failure of the hardware: fetch, the loop-end check, its body, and
retirement or the stop it met. -/
def runInsn (a : Issue) (i : Instr) (len : Nat) (known : Bool) (body : M Next) (s : Sys) : Sys :=
  match (do fetch a i known; loopCheck a.core len; body : M Next).run s with
  | .ok n s' => s'.retire a.core len n
  | .error st s' => Sys.stopped a.core s st s'

/-- The sequencer of the core in the routine of instruction `i`, over the microwords that the environment lets it fetch: from
where it waits, or from the instruction's entry (R317). Where the word at the PC is not `i`, no routine runs. -/
def Sys.sequence (s : Sys) (a : Issue) (i : Instr) (ticks : List MicroTick) : SeqEnd :=
  match (fetchWord a.core).run s, (s.core a.core).slot with
  | .ok w _, some n =>
    if decodeWord a w = some i then
      let entry := Config.microEntry w
      USeq.run (s.slot n).patch entry ticks ((s.core a.core).useq.getD { addr := entry })
    else .done
  | _, _ => .done

/-- Instruction `i`, of `len` syllables, and the hardware failure that meets it; `micro` is there for a microcoded one
(R304, R320). -/
def insn (a : Issue) (i : Instr) (len : Nat) (known : Bool) (micro : Option MicroEnd) (body : M Next) (s : Sys) : Sys :=
  let k := a.core.val
  let s := s.closeShadow k
  let lost (m : MicroEnd) : Sys := (m s).1.microLoss k (m s).2
  if !s.canIssue k then s
  else
    let run := runInsn a i len known body
    match a.hw with
    | .none => run s
    | .dividerParity => run s
    | .bankUnc => s.faultRunning k 702
    | .cacheUnc line =>
      (s.cacheUnc k false line).enter k
        { cls := 14, code := 3, info := 703, asyn := true, faddr := line / 64 * 64 % w36 } true (s.ctx k).pc
    | .l3Unc line => run (s.cacheUnc k true line)
    | .l1iParity =>
      match s.fetchAddr k with
      | some pa => if pa < memSize then run (s.l1iParity k pa) else run s
      | none => run s
    | .micro ticks =>
      match micro with
      | none => run s
      | some m =>
        match s.sequence a i ticks with
        | .parity =>
          (lost m).substitute k 710
            { kind := 2, core := k, slot := 0, cls := 0, code := 0,
              part := if (s.ctx k).noPart then 0 else (s.ctx k).part, pc := (s.core k).lastPc }
        | .fault => (lost m).faultRunning k 711
        | .running u => run (s.modCore k (fun c => { c with useq := some u }))
        | .done => run s

/-- What stops an instruction of core `k` at a safe point: a pending interrupt, or a bank switch that Campion has asked for
(R311, R334). -/
def Sys.stopAt (s : Sys) (k : Nat) : Option Stop :=
  let x := s.ctx k
  if x.irqDue.isSome then some .irq
  else if (s.core k).switchTo.isSome && !stSHA x.status && x.shadow.isNone then some .stay else none

/-- The instruction is at its `n`-th safe point, where the protection of the first resumed instruction ends (R321, R347). -/
def safePoint (a : Issue) (n : Nat) : M (Option Stop) := do
  modX a.core (fun x => { x with hold := false })
  let s ← get
  pure (if a.irqAt != 0 && a.irqAt ≤ n then s.stopAt a.core else none)

/-- An interrupt is seen while the instruction waits (R320), unless R347 holds it off. -/
def waitPoint (a : Issue) : M Unit := do
  let x ← ctxM a.core
  if a.irqAt != 0 && x.irqDue.isSome && !x.hold then throw .irq

/-! ## The return from an exception (R103, R111, R345, R346) -/

/-- R345 check 5. -/
def badFrame (w1 w4 w5 : Word) : Bool :=
  fld w1 20 35 != 0 || 5 ≤ stFRM w1 || (stLA w1 && stLREG w1 = 0) || 5 ≤ stFRM w4 ||
    fld w5 1 33 != 0 || (fld w5 34 35 != 0 && !kbit w5 0)

/-- RSP of a world takes a value; the bank entries stay only when it is the value it had (R111). -/
def WorldRegs.setRsp (r : WorldRegs) (v : Word) : WorldRegs :=
  let v := v &&& ~~~3
  if v = r.rsp then r else { r with rsp := v, rbank := [] }

/-- XRET's register changes. The shadow count is one more than the frame's, since XRET itself retires next; of the pending
value only bits 2-12 are read (R97, R345). The XRET that pops an entry's frame ends that entry, and with it what SAVEU did
there (R385, R387). -/
def Ctx.returned (x : Ctx) (f : List Word) : Ctx :=
  let g (i : Nat) : Word := (f[i]?).getD 0
  let w := x.custody
  let st := stZeroSHA (g 1)
  let x := { x with ovfl := if w && x.ovfl = some x.sspC then none else x.ovfl,
                    saved := if w then x.saved.filter (fun v => v.2 != x.sspC) else x.saved }
  let x := x.setSsp w (x.ssp w + 32)
  let x := { x with pc := g 0, status := st, shield := 0,
                    shadow := if kbit (g 5) 0 then some { pend := applyPend st (g 4), count := fld (g 5) 34 35 + 1 } else none }
  let x := x.setWorld (stW st) ((x.world (stW st)).setRsp (g 6))
  x.wrG 30 (g 7)

/-- The four double-word loads of the frame at `sp`, word by word. -/
def loadFrame (k sp : Nat) : M (List Word) := do
  let d0 ← loadD k sp
  let d1 ← loadD k (sp + 8)
  let d2 ← loadD k (sp + 16)
  let d3 ← loadD k (sp + 24)
  pure [dw0 d0, dw1 d0, dw0 d1, dw1 d1, dw0 d2, dw1 d2, dw0 d3, dw1 d3]

/-- The return from an exception: the checks of R345 in order, then R346 as one action. -/
def returnM (k : Nat) : M Unit := do
  let x ← ctxM k
  let sp := (x.ssp x.custody).toNat
  if sp % 32 != 0 then misaligned 0 sp
  let f ← loadFrame k sp
  let g (i : Nat) : Word := (f[i]?).getD 0
  if !x.custody && stW (g 1) then privileged
  if kbit (g 0) 35 then misaligned 0 (g 0).toNat
  if badFrame (g 1) (g 4) (g 5) then illegalControl
  modX k (fun x => x.returned f)

/-! ## Commands and their answers -/

abbrev Out := Host.Outcome State Fault Refusal

/-- A command whose effect lies in the processing part (DESIGN CHOICE, log 6). -/
def onSys (f : Sys → Sys) (s : State) : Out := .next { s with sys := f s.sys }

/-- A command that is an instruction (DESIGN CHOICE, logs 4 and 6; DEDUCED, log 8). -/
def instr (a : Issue) (i : Instr) (len : Nat) (body : M Next) (s : State) : Out := onSys (insn a i len true none body) s

/-- A microcoded instruction without a destination in memory (R304, R320). -/
def instrMicro (a : Issue) (i : Instr) (len : Nat) (body : M Next) (s : State) : Out := onSys (insn a i len true (some microPlain) body) s

/-- A body that goes on to the next instruction. -/
def seq (b : M Unit) : M Next := do
  b
  pure .seq

end Sys2Proof.Machine
end

