-- ==== Sys2Proof/Machine/Control.lean ====
section
/-! DEFINITION. Control flow (04 R119, R133-R146) and the return stack (03 R106-R111). -/

namespace Sys2Proof.Machine

/-! ## Branches -/

/-- A transfer to a computed target; outside 0 to 2^36 - 1 it is an instruction-fetch translation fault at the branch
(R134). -/
def target (t : Int) : M Nat := do
  if t < 0 || (vaTop : Int) ≤ t then raise 2 1 1 (va36 t)
  pure t.toNat

/-- A PC-relative branch, conditional when `cond`; its slice of the predictor learns from it (R309). -/
def branchIf {n : Nat} (k : Nat) (off : BitVec n) (cond c : Bool) : M Next := do
  let d := if cond then some c else none
  if c then
    let x ← ctxM k
    let t ← target (relTarget x.pc off)
    upd (fun s => s.learn k d (some t))
    pure (.jump t true)
  else
    upd (fun s => s.learn k d none)
    pure .seq

/-- A branch on one register. -/
def branch1 {n : Nat} (a : Issue) (i : Instr) (len : Nat) (ra : Reg) (off : BitVec n) (c : Word → Bool) (s : State) : Out :=
  instr a i len (do
    let v ← rG a.core ra
    branchIf a.core off true (c v)) s

/-- A branch on two registers. -/
def branch2 (a : Issue) (i : Instr) (ra rb : Reg) (off : BitVec 18) (c : Word → Word → Bool) (s : State) : Out :=
  instr a i 4 (do
    let v ← rG a.core ra
    let w ← rG a.core rb
    branchIf a.core off true (c v w)) s

def execBeqz (a : Issue) (ra : Reg) (off : BitVec 9) (s : State) : Out := branch1 a (.beqz a ra off) 2 ra off (fun v => v = 0) s
def execBnez (a : Issue) (ra : Reg) (off : BitVec 9) (s : State) : Out := branch1 a (.bnez a ra off) 2 ra off (fun v => v != 0) s
def execBltz (a : Issue) (ra : Reg) (off : BitVec 9) (s : State) : Out := branch1 a (.bltz a ra off) 2 ra off (fun v => v.slt 0) s
def execBgez (a : Issue) (ra : Reg) (off : BitVec 9) (s : State) : Out := branch1 a (.bgez a ra off) 2 ra off (fun v => !v.slt 0) s
def execBrs (a : Issue) (off : BitVec 14) (s : State) : Out := instr a (.brs a off) 2 (branchIf a.core off false true) s
def execBeq (a : Issue) (ra rb : Reg) (off : BitVec 18) (s : State) : Out := branch2 a (.beq a ra rb off) ra rb off (fun v w => v = w) s
def execBne (a : Issue) (ra rb : Reg) (off : BitVec 18) (s : State) : Out := branch2 a (.bne a ra rb off) ra rb off (fun v w => v != w) s
def execBlt (a : Issue) (ra rb : Reg) (off : BitVec 18) (s : State) : Out := branch2 a (.blt a ra rb off) ra rb off (fun v w => v.slt w) s
def execBge (a : Issue) (ra rb : Reg) (off : BitVec 18) (s : State) : Out := branch2 a (.bge a ra rb off) ra rb off (fun v w => !v.slt w) s
def execBltu (a : Issue) (ra rb : Reg) (off : BitVec 18) (s : State) : Out := branch2 a (.bltu a ra rb off) ra rb off (fun v w => v.ult w) s
def execBgeu (a : Issue) (ra rb : Reg) (off : BitVec 18) (s : State) : Out := branch2 a (.bgeu a ra rb off) ra rb off (fun v w => !v.ult w) s
def execBeqi (a : Issue) (ra : Reg) (imm : BitVec 5) (off : BitVec 18) (s : State) : Out :=
  branch1 a (.beqi a ra imm off) 4 ra off (fun v => v = sext 36 imm) s
def execBnei (a : Issue) (ra : Reg) (imm : BitVec 5) (off : BitVec 18) (s : State) : Out :=
  branch1 a (.bnei a ra imm off) 4 ra off (fun v => v != sext 36 imm) s
def execBlti (a : Issue) (ra : Reg) (imm : BitVec 5) (off : BitVec 18) (s : State) : Out :=
  branch1 a (.blti a ra imm off) 4 ra off (fun v => v.slt (sext 36 imm)) s
def execBgei (a : Issue) (ra : Reg) (imm : BitVec 5) (off : BitVec 18) (s : State) : Out :=
  branch1 a (.bgei a ra imm off) 4 ra off (fun v => !v.slt (sext 36 imm)) s
def execBr (a : Issue) (off : BitVec 28) (s : State) : Out := instr a (.br a off) 4 (branchIf a.core off false true) s

/-! ## The return stack -/

def updCur (k : Nat) (f : WorldRegs → WorldRegs) : M Unit := modX k (fun x => x.setCur (f x.cur))

/-- Spills the oldest bank entry to the word at RSP (R106, R108); overflow is found first, by address (R327). -/
def spill (k : Nat) : M Unit := do
  let x ← ctxM k
  let r := x.cur
  if r.rsl.toNat < r.rsp.toNat + 4 then raise 5 1 0 r.rsp.toNat
  storeN k r.rsp.toNat (sylsW (r.rbank.headD 0))
  updCur k (fun r => { r with rsp := r.rsp + 4, rbank := r.rbank.drop 1 })

/-- The push of CALL and CALLR (R106). -/
def pushRet (k : Nat) (v : Word) : M Unit := do
  let x ← ctxM k
  if 16 ≤ x.cur.rbank.length then spill k
  updCur k (fun r => { r with rbank := r.rbank ++ [v] })

/-- The address that RET would pop (R107), and the return stack after it. -/
def popRet (k : Nat) : M (Word × WorldRegs) := do
  let x ← ctxM k
  let r := x.cur
  if !r.rbank.isEmpty then pure (r.rbank.getLastD 0, { r with rbank := r.rbank.dropLast })
  else if r.rsp.toNat ≤ r.rsb.toNat then raise 5 2 0 r.rsp.toNat
  else
    let v ← loadW k (r.rsp.toNat - 4 : Nat)
    pure (v, { r with rsp := r.rsp - 4 })

/-- A jump by register or a call: its target entry is made (R309); returns use the return stack (R310). -/
def jumpTo (k t : Nat) (clr : Bool) : M Next := do
  upd (fun s => s.learn k none (some t))
  pure (.jump t clr)

/-- A target outside the address space is found before the push (DESIGN CHOICE, log 85). -/
def execCall (a : Issue) (off : BitVec 28) (s : State) : Out :=
  instr a (.call a off) 4 (do
    let x ← ctxM a.core
    let t ← target (relTarget x.pc off)
    pushRet a.core (x.pc + 4)
    jumpTo a.core t false) s

/-- A register target, which must be even (R139). -/
def regTarget (v : Word) : M Nat := do
  if v.getLsbD 0 then misaligned 0 v.toNat
  pure v.toNat

def execJr (a : Issue) (ra : Reg) (s : State) : Out :=
  instr a (.jr a ra) 4 (do
    let v ← rG a.core ra
    let t ← regTarget v
    jumpTo a.core t true) s

/-- A target outside the address space is found before the push (DESIGN CHOICE, log 85). -/
def execCallr (a : Issue) (ra : Reg) (s : State) : Out :=
  instr a (.callr a ra) 4 (do
    let x ← ctxM a.core
    let v ← rG a.core ra
    let t ← regTarget v
    pushRet a.core (x.pc + 4)
    jumpTo a.core t false) s

def execRet (a : Issue) (s : State) : Out :=
  instr a (.ret a) 2 (do
    let r ← popRet a.core
    let t ← regTarget r.1
    updCur a.core (fun _ => r.2)
    pure (.jump t false)) s

/-! ## Counted loops (R141-R146) -/

/-- len_at of R141: the first parcel at an address, fetched as an instruction. -/
def lenAt (k va : Nat) : M Nat := do
  let s ← get
  let p ← fetchParcel k (s.bankOf k) (s.ctx k) va
  pure (if isLong p then 4 else 2)

/-- DEDUCED, log 22. -/
def loopBody (k : Nat) (c : Reg) (e : BitVec 6) : M Next := do
  if c = 0 then illegal
  let x ← ctxM k
  let v ← rG k c
  let last := x.pc.toNat + 4 + 2 * e.toNat
  if v = 0 then
    let n ← lenAt k last
    let t ← target ((last + n : Nat) : Int)
    pure (.jump t true)
  else
    modX k (fun x => { x with lbeg := x.pc + 4, lend := BitVec.ofNat 36 last,
                              status := setFld (setBit x.status 13 true) 14 18 c.val })
    pure (.jump (x.pc + 4).toNat false)

def execLoop (a : Issue) (c : Reg) (e : BitVec 6) (s : State) : Out := instr a (.loop a c e) 4 (loopBody a.core c e) s

end Sys2Proof.Machine
end

