-- ==== Sys2Proof/Machine/System.lean ====
section
/-! DEFINITION. Control space (03 R88-R103), the system instructions (04 R130, 10, 11 R378), invalidation and storage
keys (12 R410-R420). -/

namespace Sys2Proof.Machine

/-! ## Control space (R88-R93) -/

/-- Access of a control register at OU, OS, CU and CS: 0 none, 1 RO, 2 RW. -/
structure CAcc where
  ou : Nat
  os : Nat
  cu : Nat
  cs : Nat
  wide : Bool := false
  deriving DecidableEq, Repr

/-- The registers of R88; none for a reserved number. -/
def cregAcc (n : Nat) : Option CAcc :=
  match n with
  | 0o000 => some ⟨2, 2, 2, 2, false⟩
  | 0o001 => some ⟨0, 1, 0, 1, false⟩
  | 0o002 => some ⟨0, 1, 0, 1, false⟩
  | 0o003 => some ⟨0, 1, 0, 1, false⟩
  | 0o004 => some ⟨0, 2, 0, 0, false⟩
  | 0o005 => some ⟨0, 0, 0, 2, false⟩
  | 0o006 => some ⟨0, 2, 0, 0, false⟩
  | 0o007 => some ⟨0, 0, 0, 2, false⟩
  | 0o020 => some ⟨1, 2, 1, 2, false⟩
  | 0o021 => some ⟨1, 2, 1, 2, false⟩
  | 0o022 => some ⟨1, 2, 1, 2, false⟩
  | 0o023 => some ⟨1, 1, 1, 1, false⟩
  | 0o030 => some ⟨2, 2, 2, 2, false⟩
  | 0o031 => some ⟨2, 2, 2, 2, false⟩
  | 0o040 => some ⟨1, 1, 1, 1, false⟩
  | 0o041 => some ⟨1, 1, 1, 1, false⟩
  | 0o042 => some ⟨1, 1, 1, 1, false⟩
  | 0o043 => some ⟨1, 1, 1, 1, false⟩
  | 0o060 => some ⟨2, 2, 2, 2, false⟩
  | 0o061 => some ⟨2, 2, 2, 2, false⟩
  | 0o062 => some ⟨2, 2, 2, 2, true⟩
  | 0o063 => some ⟨2, 2, 2, 2, true⟩
  | _ => if 0o100 ≤ n && n < 0o140 then some ⟨0, 2, 0, 2, true⟩ else none

def CAcc.at (c : CAcc) (st : Word) : Nat :=
  if stW st then (if stSUP st then c.cs else c.cu) else (if stSUP st then c.os else c.ou)

/-- R151 rows 3 and 4 for a control access: the number and the width, then the level. -/
def controlCheck (k n : Nat) (wide write : Bool) : M Unit := do
  let x ← ctxM k
  match cregAcc n with
  | none => illegalControl
  | some c =>
    if wide && (!c.wide || n % 2 = 1) then illegalControl
    if !wide && write && c.wide then illegalControl
    let r := c.at x.status
    if r = 0 || (write && r != 2) then privileged

/-- SHIELD_MAX, COREID and CSTAT (03, 09). -/
def Sys.shieldMax (s : Sys) : Word := mkw 36 [(17, s.img.shieldO), (35, s.img.shieldC)]
def Sys.coreId (s : Sys) (k : Nat) : Word := mkw 36 [(17, s.img.modid.toNat), (20, 1), (23, 1), (35, k)]
def Sys.cstat (s : Sys) (k : Nat) : Word :=
  mkw 36 [(11, s.img.plvl.toNat), (34, (s.core k).cur.getD 0), (35, (s.core k).divm.toNat)]

/-- The value of a one-word control register, without the unit registers. -/
def Sys.cregVal (s : Sys) (k : Nat) (x : Ctx) (n : Nat) : Word :=
  match n with
  | 0o000 => x.status
  | 0o001 => x.cur.cause
  | 0o002 => x.cur.faddr
  | 0o003 => s.shieldMax
  | 0o004 => x.xbaseO
  | 0o005 => (s.core k).xbaseC
  | 0o006 => x.sspO
  | 0o007 => x.sspC
  | 0o020 => x.cur.rsp
  | 0o021 => x.cur.rsb
  | 0o022 => x.cur.rsl
  | 0o023 => BitVec.ofNat 36 x.cur.rbank.length
  | 0o030 => x.lbeg
  | 0o031 => x.lend
  | 0o040 => x.taskid
  | 0o041 => x.partid
  | 0o042 => s.coreId k
  | 0o043 => s.cstat k
  | 0o060 => x.fsr
  | _ => 0

/-- A double-word control register: ACC or an extent of the current world. -/
def readWide (k n : Nat) : M DWord := do
  if n < 0o100 then
    ownF k
    return (← getF k).acc
  else
    let x ← ctxM k
    return tget 0 x.cur.exts ((n - 0o100) / 2)

def readControl (k n : Nat) : M Word := do
  if n = 0o061 then
    ownD k
    return (← getD' k).drs
  else if n = 0o062 || n = 0o063 || 0o100 ≤ n then
    let d ← readWide k (n / 2 * 2)
    return (if n % 2 = 0 then dw0 d else dw1 d)
  else
    let s ← get
    return s.cregVal k (s.ctx k) n

/-- R398: what a PUTC2 with V = 1 may not hold. -/
def Sys.extBad (s : Sys) (x : Ctx) (e : DWord) : Bool :=
  let base := extPBASE e * 0x100000
  let size := (extVSIZE e + 1) * 4096
  let port := extVSIZE e = 0 && (List.range 12).any (fun c => (s.part x.part).aff c && s.img.ports[c]? = some base)
  0x1000000 < extVBASE e + extVSIZE e + 1 ||
  (!extPG e && 0x10000000000 < base + size) ||
  (!x.custody && !extPG e && !s.spanInRanges x.part base size && !port) ||
  (!x.custody && extPG e && !s.spanInRanges x.part base 4096)

/-- The pending STATUS of a PUTC (R98): bits 2-7 stay at user levels (DEDUCED, log 11). -/
def pendStatus (x : Ctx) (v : Word) : Word :=
  if x.sup then setFld x.status 2 12 (fld v 2 12) else setFld x.status 8 12 (fld v 8 12)

/-- A write of RSP, RSB or RSL discards the bank entries (R110). -/
def setRs (r : WorldRegs) : WorldRegs := { r with rbank := [] }

/-- A write of a register other than LBEG and LEND. -/
def writeOther (k n : Nat) (v : Word) : M Unit := do
  match n with
  | 0o000 =>
    if 5 ≤ stFRM v then illegalControl
    -- the count is one more than three, since the PUTC itself retires next
    modX k (fun x => { x with shadow := some { pend := pendStatus x v, count := 4 } })
  | 0o004 => modX k (fun x => { x with xbaseO := v &&& ~~~1 })
  | 0o005 => upd (fun s => s.modCore k (fun c => { c with xbaseC := v &&& ~~~1 }))
  | 0o006 => modX k (fun x => { x with sspO := v })
  | 0o007 => modX k (fun x => { x with sspC := v })
  | 0o020 => updCur k (fun r => setRs { r with rsp := v &&& ~~~3 })
  | 0o021 => updCur k (fun r => setRs { r with rsb := v &&& ~~~3 })
  | 0o022 => updCur k (fun r => setRs { r with rsl := v &&& ~~~3 })
  | 0o060 => modX k (fun x => { x with fsr := v &&& fsrMask })
  | 0o061 =>
    if 4 ≤ drsLRES v then illegalControl
    ownD k
    setD k (fun d => { d with drs := v &&& drsMask })
  | _ => pure ()

/-- A PUTC's write; LBEG and LEND take their values after its own loop end (R92, R112). -/
def writeControl (k n : Nat) (v : Word) : M Next :=
  match n with
  | 0o030 => pure (.bound false v)
  | 0o031 => pure (.bound true v)
  | _ => seq (writeOther k n v)

def writeWide (k n : Nat) (v : DWord) : M Unit := do
  if n < 0o100 then
    ownF k
    setF k (fun f => { f with acc := v })
  else
    let s ← get
    let x := s.ctx k
    let e := (n - 0o100) / 2
    if extV v && s.extBad x v then illegalControl
    updCur k (fun r => { r with exts := tset r.exts e v })
    let b := s.bankOf k
    upd (fun s => s.modCore k (fun c => c.forget (fun t => t.bank = b && t.world = x.custody && t.ext = e)))

def execGetc (a : Issue) (r : Reg) (num : BitVec 9) (s : State) : Out :=
  instr a (.getc a r num) 4 (seq do
    controlCheck a.core num.toNat false false
    let v ← readControl a.core num.toNat
    wG a.core r v) s

def execPutc (a : Issue) (r : Reg) (num : BitVec 9) (s : State) : Out :=
  instr a (.putc a r num) 4 (do
    controlCheck a.core num.toNat false true
    let v ← rG a.core r
    writeControl a.core num.toNat v) s

def execGetc2 (a : Issue) (r : Reg) (num : BitVec 9) (s : State) : Out :=
  instr a (.getc2 a r num) 4 (seq do
    needEven r
    controlCheck a.core num.toNat true false
    let v ← readWide a.core num.toNat
    wP a.core r v) s

def execPutc2 (a : Issue) (r : Reg) (num : BitVec 9) (s : State) : Out :=
  instr a (.putc2 a r num) 4 (seq do
    needEven r
    controlCheck a.core num.toNat true true
    let v ← rP a.core r
    writeWide a.core num.toNat v) s

/-! ## Service calls, returns, shields, the return stack -/

def needSup (k : Nat) : M Unit := do
  let x ← ctxM k
  if !x.sup then privileged

def execSvc (a : Issue) (imm : BitVec 12) (s : State) : Out := instr a (.svc a imm) 4 (pure (.svc imm.toNat)) s

/-- An overflow handler's XRET without SAVEL (R387), or the end of a cancelled one (R381); a task that waited and has had an event
meanwhile becomes READY (R376). -/
def Sys.unspill (k : Nat) (s : Sys) : Sys :=
  let c := clusterOf k
  match s.runTask k with
  | none => s
  | some i =>
    let t := s.task c i
    let s := s.modCore k (fun co => { co with cur := none })
    let s := if t.cancel then s.endTask c i
      else
        let wake := t.prior = 3 && t.events != 0
        let s := s.setTask c i { t with state := if wake then 1 else t.prior, prior := 0 }
        if wake then s.becomeReady c i else if t.prior = 1 then s.requeue c i else s
    let pl := (s.campion c).placing.filter (fun x => x.2 = k)
    let s := s.modCamp c (fun cp => { cp with placing := cp.placing.filter (fun x => x.2 != k),
                                              ready := pl.map (fun x => x.1) ++ cp.ready })
    let s := pl.foldl (fun s x => s.tryPlace c x.1) s
    s.pump c

def execXret (a : Issue) (s : State) : Out :=
  instr a (.xret a) 4 (do
    needSup a.core
    let x ← ctxM a.core
    returnM a.core
    let s ← get
    match s.runTask a.core with
    | some i =>
      if (s.task (clusterOf a.core) i).state = 6 && x.custody && x.ovfl = some x.sspC then
        modX a.core (fun x => { x.retired with hold := true })
        upd (fun s => s.unspill a.core)
        throw .gone
      else pure .returned
    | none => pure .returned) s

/-- SHIELD n, with n = imm12 + 1 (R341, R342). -/
def execShield (a : Issue) (imm : BitVec 12) (s : State) : Out :=
  instr a (.shield a imm) 4 (seq do
    needSup a.core
    let s ← get
    let x := s.ctx a.core
    let m := min (imm.toNat + 1) (if x.custody then s.img.shieldC else s.img.shieldO)
    if !stSHA x.status && m != 0 then
      modX a.core (fun x => { x with status := setBit x.status 19 true, shield := m })) s

/-- RSFLUSH's spills; a fault leaves the entries already spilled in memory (R109). -/
def flushLoop (k : Nat) : Nat → M Unit
  | 0 => pure ()
  | n + 1 => do
    let x ← ctxM k
    if x.cur.rbank.isEmpty then pure ()
    else
      tryCatch (spill k) (fun st => match st with
        | .exc e _ => throw (.exc e true)
        | st => throw st)
      flushLoop k n

def execRsflush (a : Issue) (s : State) : Out := instr a (.rsflush a) 4 (seq (flushLoop a.core 16)) s

/-! ## FENCE and WAIT -/

/-- FENCE (R434): with stores in the queue it waits, and STORE_COMMIT completes it. -/
def execFence (a : Issue) (lf : Bool) (s : State) : Out :=
  instrMicro a (.fence a lf) (if lf then 4 else 2) (seq do
    let s ← get
    if !(s.core a.core).sq.isEmpty then
      upd (fun s => s.modCore a.core (fun c => { c with waitc := some (.fence lf) }))
      throw .stay) s

/-- The task of core `k` blocks (R378). -/
def Sys.waitBlock (k : Nat) (s : Sys) : Sys :=
  let c := clusterOf k
  match s.runTask k with
  | none => s
  | some i =>
    let s := s.account k
    let s := s.modCore k (fun co => { co with cur := none })
    let t := s.task c i
    (if t.cancel then s.endTask c i else s.setTask c i { t with state := 3 }).pump c

/-- WAIT (R378). Where R334 allows no bank switch, under a shield or in a mode shadow, the task waits on its core
(DESIGN CHOICE, log 88). -/
def execWait (a : Issue) (lf : Bool) (s : State) : Out :=
  instrMicro a (.wait a lf) (if lf then 4 else 2) (seq do
    let s ← get
    let c := clusterOf a.core
    match s.runTask a.core with
    | none => pure ()
    | some i =>
      let t := s.task c i
      if t.events = 0 then
        waitPoint a
        let x ← ctxM a.core
        if stSHA x.status || x.shadow.isSome then throw .stay
        upd (fun s => s.waitBlock a.core)
        throw .gone
      wG a.core 1 (BitVec.ofNat 36 t.events)
      upd (fun s => s.setTask c i { t with events := 0 })) s

/-! ## Invalidation (R410-R412) -/

/-- The cached translation or walk-cache entry falls in the scope. -/
def InvScope.hits (v : InvScope) (t : XlTag) : Bool :=
  match v with
  | .addr w p va => t.world = w && t.partid = p && t.vbase ≤ va && va < t.vbase + t.size
  | .ofPartid w p => t.world = w && t.partid = p
  | .part p => !kbit t.partid 25 && fld t.partid 26 35 = p
  | .all => true

def Sys.applyInv (k : Nat) (v : InvScope) (s : Sys) : Sys :=
  s.modCore k (fun c => c.forget v.hits)

/-- The other cores an invalidation is sent to: those of the affinity set of the partition, or every core
(DESIGN CHOICE, log 18). -/
def Sys.invTargets (s : Sys) (k : Nat) (p : Option Nat) : List Nat :=
  (List.range 96).filter (fun j => j != k && (s.core j).slot.isSome &&
    (match p with
     | some p => (s.part p).aff (clusterOf j)
     | none => true))

/-- Applies an invalidation here and sends it (R411); absent cores and fenced slots acknowledge at once. The stores in the
queue may have used what it removed (R412). -/
def issueInv (k : Nat) (v : InvScope) (p : Option Nat) : M Unit := do
  let s ← get
  let ts := s.invTargets k p
  let r : InvReq := { scope := v, src := k, slot := (s.core k).slot, task := (s.ctx k).taskid }
  upd (fun s => (s.applyInv k v).modCore k (fun c => { c with ivSt := c.sq.length }))
  upd (fun s => ts.foldl (fun s j => s.modCore j (fun c => { c with invq := c.invq ++ [r] })) s)
  modX k (fun x => { x with ivOut := x.ivOut ++ ts })

/-- The partition whose affinity set bounds an invalidation of the context; none without a partition
(DESIGN CHOICE, log 18). -/
def Ctx.invPart (x : Ctx) : Option Nat := if x.noPart then none else some x.part

def execIva (a : Issue) (ra : Reg) (s : State) : Out :=
  instr a (.iva a ra) 4 (seq do
    needSup a.core
    let x ← ctxM a.core
    let v ← rG a.core ra
    issueInv a.core (.addr x.custody x.partid v.toNat) x.invPart) s

def execIvp (a : Issue) (ra : Reg) (s : State) : Out :=
  instr a (.ivp a ra) 4 (seq do
    let x ← ctxM a.core
    let v ← rG a.core ra
    needSup a.core
    if fld v 0 25 != 0 then illegalControl
    if !x.custody && v != x.partid then privileged
    let p := fld v 26 35
    issueInv a.core (if x.custody then .part p else .ofPartid false x.partid) (some p)) s

def execIvall (a : Issue) (s : State) : Out :=
  instr a (.ivall a) 4 (seq do
    needSup a.core
    let x ← ctxM a.core
    if x.custody then issueInv a.core .all none
    else issueInv a.core (.ofPartid false x.partid) x.invPart) s

def execIvsync (a : Issue) (s : State) : Out :=
  instrMicro a (.ivsync a) 4 (seq do
    needSup a.core
    let s ← get
    if !(s.ctx a.core).ivOut.isEmpty || (s.core a.core).ivSt != 0 then
      upd (fun s => s.modCore a.core (fun c => { c with waitc := some .ivsync }))
      throw .stay) s

/-! ## Storage keys (R419, R420) -/

def skCheck (k : Nat) (fa : Word) (key : Option Word) : M Unit := do
  let s ← get
  let x := s.ctx k
  if memSize ≤ fa.toNat then illegalControl
  match key with
  | some w => if fld w 0 27 != 0 then illegalControl
  | none => pure ()
  if !x.custody && !s.inRanges x.part fa.toNat then privileged

/-- Commits the stores of every core, as SKSET needs for those checked under the old key. -/
def Sys.drainAllSq (s : Sys) : Sys := (List.range 96).foldl (fun s k => s.drainSq k) s

def execSkset (a : Issue) (ra rb : Reg) (s : State) : Out :=
  instr a (.skset a ra rb) 4 (seq do
    needSup a.core
    let fa ← rG a.core ra
    let w ← rG a.core rb
    skCheck a.core fa (some w)
    upd (fun s => s.drainAllSq)
    let s ← get
    if (List.range 96).any (fun k => (s.core k).sq.any (fun e => e.pa / 4096 = fa.toNat / 4096)) then throw .stay
    upd (fun s => (s.wr (s.keyAddr fa.toNat) [BitVec.ofNat 9 (fld w 27 35)]).dropKey (fa.toNat / 4096))) s

def execSkget (a : Issue) (ra rb : Reg) (s : State) : Out :=
  instr a (.skget a ra rb) 4 (seq do
    needSup a.core
    let fa ← rG a.core ra
    skCheck a.core fa none
    upd (fun s => s.fetchFor 0 (s.keyAddr fa.toNat) 1)
    let s ← get
    if s.poisoned (s.keyAddr fa.toNat) then keyStoreEx 2 fa.toNat
    wG a.core rb (BitVec.ofNat 36 (s.keyOf fa.toNat).toNat)) s

end Sys2Proof.Machine
end

