-- ==== Sys2Proof/Machine/Banks.lean ====
section
/-! DEFINITION. Bank overflow (11 R382-R388: SAVEU, SAVEL, restore), bank switches (10 R334), interrupt entry, shields
and shadows, heartbeats, and the events and commands that Campion takes (11 R364-R381). -/

namespace Sys2Proof.Machine

/-! ## The save area (R384-R388) -/

/-- Save areas that another overflow handler has begun to fill (DESIGN CHOICE, log 46). -/
def Sys.claimed (s : Sys) (k : Nat) : List Nat :=
  (coresOf (clusterOf k)).flatMap (fun j => (s.core j).banks.filterMap (fun b =>
    if j = k && (s.core k).cur = some b.1 then none else b.2.saved.head?.map (fun a => a.1)))

/-- The areas of a cluster's free list, from its head on. -/
def Sys.freeAreas (s : Sys) : Nat → Option Nat → List Nat
  | 0, _ => []
  | _ + 1, none => []
  | n + 1, some a =>
    let l := s.rdD a
    a :: s.freeAreas n (if kbit l 0 then some (fld l 32 71) else none)

/-- The area that a SAVEU of core `k` writes: the one it has, or the first free one that no other handler fills
(DESIGN CHOICE, log 46). -/
def Sys.areaFor (s : Sys) (k : Nat) : Option Nat :=
  match (s.ctx k).saved with
  | a :: _ => some a.1
  | [] =>
    let cp := s.campion (clusterOf k)
    (s.freeAreas cp.freeN cp.freeHd).find? (fun a => !(s.claimed k).contains a)

/-- Takes an area off the free list, wherever it stands in it. -/
def Sys.unlinkArea (c a : Nat) (s : Sys) : Sys :=
  let cp := s.campion c
  if cp.freeHd = some a then s.popArea c
  else match (s.freeAreas cp.freeN cp.freeHd).find? (fun b => kbit (s.rdD b) 0 && fld (s.rdD b) 32 71 = a) with
    | some b => (s.wrD b (s.rdD a)).setCampion c { cp with freeN := cp.freeN - 1 }
    | none => s

/-- Words of one world's part of a save area: CAUSE, FADDR, RSP, RSB, RSL, RSD. -/
def WorldRegs.words (r : WorldRegs) : List Word :=
  [r.cause, r.faddr, r.rsp, r.rsb, r.rsl, BitVec.ofNat 36 r.rbank.length]

def padTo (n : Nat) (l : List Word) : List Word := l.take n ++ List.replicate (n - l.length) 0

def WorldRegs.extWords (r : WorldRegs) : List Word :=
  (List.range 16).flatMap (fun i => [dw0 (tget 0 r.exts i), dw1 (tget 0 r.exts i)])

/-- Words 2 to 23 of a save area, from the frame `f` and the bank. -/
def lowWords (x : Ctx) (f : List Word) : List Word :=
  let g (i : Nat) : Word := (f[i]?).getD 0
  [x.taskid, 0, g 0, g 1, g 4, g 5] ++ (List.range 16).map (fun i => if i = 14 then g 7 else x.rdG (16 + i))

/-- Words 39 to 255. -/
def highWords (x : Ctx) : List Word :=
  [0, x.sspO, x.sspC + 32, x.xbaseO, x.fsr, x.lbeg, x.lend, 0, 0] ++ x.wo.words ++ x.wc.words ++ List.replicate 4 0 ++
    padTo 16 x.wo.rbank ++ padTo 16 x.wc.rbank ++ x.wo.extWords ++ x.wc.extWords ++ List.replicate 96 0

/-- Writes back what the core's units hold of the running task (R394); the next use loads it from the lazy area. -/
def Sys.flushUnits (k : Nat) (s : Sys) : Sys :=
  let o := some (s.ctx k).taskid.toNat
  let s := if (s.core k).fu.owner = o then (s.saveF (s.core k).fu).modCore k (fun c => { c with fu := {} }) else s
  if (s.core k).du.owner = o then (s.saveD (s.core k).du).modCore k (fun c => { c with du := {} }) else s

def needCs (k : Nat) : M Unit := do
  let x ← ctxM k
  if !(x.custody && x.sup) then privileged

/-- An instruction to which the spec gives no word, so that the fetch finds none reserved (DESIGN CHOICE, log 4). -/
def instrRaw (a : Issue) (i : Instr) (body : M Next) (s : State) : Out := onSys (insn a i 4 false none body) s

/-- DESIGN CHOICE, logs 27 and 46. -/
def execSaveu (a : Issue) (s : State) : Out :=
  instrRaw a (.saveu a) (seq do
    let k := a.core.val
    needCs k
    let s ← get
    match s.areaFor k with
    | none => illegalControl
    | some ar =>
      let f ← loadFrame k (s.ctx k).sspC.toNat
      upd (fun s =>
        let x := s.ctx k
        ((s.wr (ar + 8) (wordsToSyls (lowWords x f))).wr (ar + 156) (wordsToSyls (highWords x))).flushUnits k)
      modX k (fun x => { x with saved := (ar, x.sspC) :: x.saved.filter (fun v => v.2 != x.sspC) })
      tick k 48) s

/-- What SAVEL does to its task: spilled, READY if it was or if an event came while it was SPILLING (R376, R385), with the pending
interrupts and outstanding acknowledgements of its context (R336, R412), or ended when it was cancelled (R381). -/
def Sys.spillTask (k ar : Nat) (s : Sys) : Sys :=
  let c := clusterOf k
  match s.runTask k with
  | none => s
  | some i =>
    let b := s.bankOf k
    let x := s.ctx k
    let s := (s.flushUnits k).unlinkArea c ar
    let s := s.account k
    let s := s.clearBank k b
    let t := s.task c i
    let wait := t.prior = 3 && t.events = 0
    let s := s.setTask c i { t with state := if wait then 5 else 4, prior := 0, save := some ar, resid := none,
                                    irqO := x.irqO, irqC := x.irqC, ivOut := x.ivOut }
    let s := if t.cancel then s.endTask c i
      else if wait then s
      else if t.prior = 3 then s.becomeReady c i
      else s.requeue c i
    (s.lowCheck c).pump c

/-- The context's queued stores commit before it leaves the core (R433) (DESIGN CHOICE, logs 27 and 46). -/
def execSavel (a : Issue) (s : State) : Out :=
  instrRaw a (.savel a) (do
    let k := a.core.val
    needCs k
    let x ← ctxM k
    match x.saved.find? (fun v => v.2 = x.sspC) with
    | none => illegalControl
    | some (ar, _) =>
      drain k
      upd (fun s => s.wr (ar + 96) (wordsToSyls ((List.range 15).map (fun i => x.rdG (i + 1)))))
      tick k 12
      upd (fun s => s.spillTask k ar)
      throw .gone) s

/-! ## Restore (R388) -/

def restoreWorld (w : List Word) (o rb ex : Nat) : WorldRegs :=
  let g (i : Nat) : Word := (w[i]?).getD 0
  { cause := g o, faddr := g (o + 1), rsp := g (o + 2), rsb := g (o + 3), rsl := g (o + 4),
    rbank := (List.range (g (o + 5)).toNat).map (fun i => g (rb + i)),
    exts := tblOf ((List.range 16).map (fun i => mkd (g (ex + 2 * i)) (g (ex + 2 * i + 1)))) }

/-- The context that a save area holds; the shadow reopens by R103 and R347 applies. -/
def restoreCtx (w : List Word) (pid : Word) : Ctx :=
  let g (i : Nat) : Word := (w[i]?).getD 0
  let x : Ctx :=
    { pc := g 4, status := g 5, taskid := g 2, partid := pid, sspO := g 40, sspC := g 41, xbaseO := g 42, fsr := g 43,
      lbeg := g 44, lend := g 45, wo := restoreWorld w 48 64 96, wc := restoreWorld w 54 80 128, hold := true,
      shadow := if kbit (g 7) 0 then some { pend := applyPend (g 5) (g 6), count := fld (g 7) 34 35 } else none }
  let x := (List.range 16).foldl (fun (x : Ctx) i => x.wrG (16 + i) (g (8 + i))) x
  (List.range 15).foldl (fun (x : Ctx) i => x.wrG (1 + i) (g (24 + i))) x

/-- A placed task's context stands in bank `b` of core `k`; the core goes to it. -/
def Sys.fillBank (c i k b : Nat) (x : Ctx) (s : Sys) : Sys :=
  let t := s.task c i
  let s := match t.save with
    | some a => s.pushArea c a
    | none => s
  let s := s.setBank k b { x with irqO := t.irqO, irqC := t.irqC, ivOut := t.ivOut }
  let s := s.setTask c i { t with state := 1, resid := some (k, b), save := none, init := none, irqO := [], irqC := [],
                                  ivOut := [] }
  let co := s.core k
  if co.cur.isNone && co.switchTo.isNone then s.switchIn k b
  else if co.switchTo.isNone then s.setCore k { co with switchTo := some (some b) }
  else s.requeue c i

/-- Campion fills a free bank with the first placed task that may have one; a poisoned save area faults the task. -/
def Sys.restore (c : Nat) (s : Sys) : Sys :=
  match (s.campion c).placing.find? (fun x => s.mayFill c x.1 x.2) with
  | none => s
  | some (i, k) =>
    let s := s.modCamp c (fun cp => { cp with placing := cp.placing.filter (fun x => x.1 != i) })
    let t := s.task c i
    match s.freeBank k, t.init, t.save with
    | some b, some x, _ => s.fillBank c i k b x
    | some b, none, some a =>
      let s := s.fetchFor 6 a 1024
      if s.poisonedSpan a 1024 then (s.taskFault c i 701).pump c
      else s.fillBank c i k b (restoreCtx ((List.range 256).map (fun n => s.rdW (a + 4 * n))) (partIdOf t.noPart t.part))
    | _, _, _ => s

def execRestore (c : Cluster) (s : State) : Out := onSys (fun s => s.restore c) s

/-! ## Bank switches (R334) and interrupt entry (R311, R331) -/

/-- A point at which the core may leave its context (DESIGN CHOICE, log 46). -/
def Sys.mayLeave (s : Sys) (k : Nat) : Bool :=
  match s.running k with
  | none => true
  | some (_, x) => x.shadow.isNone && !stSHA x.status && !x.hold && (s.core k).waitc.isNone && (s.core k).entry.isNone

/-- The selected context begins: a victim takes its class 10 entry (R382). -/
def Sys.begin (k : Nat) (s : Sys) : Sys :=
  match s.runTask k with
  | some i =>
    if (s.task (clusterOf k) i).state = 6 then
      s.enter k { cls := 10, code := 1, asyn := true } true (s.ctx k).pc
    else s
  | none => s

/-- The core leaves its context and goes to the bank that Campion asked for; a READY context of a partition that has been held
since stays in its queue (R461) (DESIGN CHOICE, log 46). -/
def Sys.bankSwitch (k : Nat) (s : Sys) : Sys :=
  let s := s.closeShadow k
  match (s.core k).switchTo with
  | none => s
  | some t =>
    if (s.core k).stopped || (s.core k).slot.isNone || !s.mayLeave k then s
    else
      let s := (s.switchOut k).modCore k (fun co => { co with switchTo := none, remote := none })
      match t with
      | none => s.pump (clusterOf k)
      | some b =>
        let c := clusterOf k
        match tfind (s.core k).banks b with
        | none => s.pump c
        | some x =>
          let i := taskIdx x.taskid
          if (s.task c i).state = 1 && !s.mayRun c i then (s.modCamp c (fun cp => { cp with ready := i :: cp.ready })).pump c
          else ((s.switchIn k b).begin k).pump c

/-- BANK_SWITCH; an uncorrectable error in the bank that the core reads faults its task with 702 (R348). -/
def execBankSwitch (a : Issue) (s : State) : Out :=
  onSys (fun s =>
    let s := s.bankSwitch a.core
    if a.hw = .bankUnc then s.faultRunning a.core 702 else s) s

/-- An interrupt is recognised where the core waits or between instructions; R347 holds it back. -/
def Sys.interrupt (k : Nat) (s : Sys) : Sys :=
  let s := s.closeShadow k
  match s.running k with
  | some (_, x) =>
    if x.irqDue.isSome && !x.hold && (s.core k).waitc.isNone && (s.core k).entry.isNone then s.takeIrq k else s
  | none => s

def execInterruptEntry (a : Issue) (s : State) : Out :=
  onSys (fun s => if a.hw = .bankUnc then s.faultRunning a.core 702 else s.interrupt a.core) s

def execShadowClose (k : CoreId) (s : State) : Out := onSys (fun s => s.closeShadow k) s

/-- The shield of the running context ends (R343). -/
def execShieldEnd (k : CoreId) (s : State) : Out :=
  onSys (fun s => s.modCtx k (fun x => { x with status := setBit x.status 19 false, shield := 0 })) s

/-! ## Heartbeats and self-tests (01 R41-R49) -/

def execHeartbeat (c : Cluster) (sl : SlotId) (s : State) : Out := onSys (fun s => s.heartbeat (slotKey c sl)) s
def execHeartbeatTick (s : State) : Out := onSys (fun s => s.tick) s
def execSelfTestEnd (c : Cluster) (sl : SlotId) (pass : Bool) (s : State) : Out :=
  onSys (fun s => s.selfTestEnd c sl pass) s

/-! ## Events, timers, quanta (R372, R376-R380) -/

def execCampionEvent (c : Cluster) (task : Word) (src : EvSrc) (s : State) : Out := onSys (fun s => s.event c task src) s

/-- A timer fires at its deadline, which the time base has then reached (R377) (DESIGN CHOICE, log 47). -/
def execTimerExpiry (c : Cluster) (idx : Nat) (s : State) : Out :=
  onSys (fun s =>
    let t := s.task c idx
    if t.state = 0 || t.tdl = 0 then s
    else
      let s := s.setTask c idx { t with tdl := 0 }
      ({ s with timeUs := max s.timeUs t.tdl } : Sys).evTask c idx .timer) s

/-- The choice of R369 and R370 at the end of a quantum, the running task last in its queue (DESIGN CHOICE, log 47). -/
def Sys.quantumEnd (k : Nat) (s : Sys) : Sys :=
  let c := clusterOf k
  match s.runTask k with
  | none => s
  | some i =>
    if (s.task c i).state != 2 || (s.core k).switchTo.isSome || (s.campion c).placing.any (fun x => x.2 = k) then s
    else
      let s := s.accountAll c
      match s.choose c ((s.campion c).ready.filter (fun j => s.eligible c k j) ++
          (if s.eligible c k i then [i] else [])) with
      | some j => if j = i then s else s.dispatch c j k
      | none => s

def execQuantumEnd (k : CoreId) (s : State) : Out := onSys (fun s => s.quantumEnd k) s

/-! ## Commands of a port (R364-R368) -/

/-- A command that the context running on core `k` stores to the port of cluster `c`. -/
def portCmd (k : CoreId) (c : Cluster) (f : Issuer → Sys → Nat × Word × Sys) (s : State) : Out :=
  onSys (fun s => if (s.running k).isSome then Sys.campDone c (s.issuer k) (f (s.issuer k) s) else s) s

def execCreate (k : CoreId) (c : Cluster) (w1 : Word) (s : State) : Out := portCmd k c (fun i s => s.campCreate c i w1) s
def execReady (k : CoreId) (c : Cluster) (w1 : Word) (s : State) : Out := portCmd k c (fun i s => s.campReady c i w1) s
def execCancel (k : CoreId) (c : Cluster) (w1 : Word) (race : Bool) (s : State) : Out :=
  portCmd k c (fun i s => s.campCancel c i w1 race) s
def execSetpri (k : CoreId) (c : Cluster) (w1 : Word) (arg : BitVec 8) (s : State) : Out :=
  portCmd k c (fun i s => s.campSetpri c i w1 arg.toNat) s
def execTimer (k : CoreId) (c : Cluster) (w1 : Word) (s : State) : Out := portCmd k c (fun i s => s.campTimer i w1) s
def execEvint (k : CoreId) (c : Cluster) (w1 : Word) (arg : BitVec 8) (s : State) : Out :=
  portCmd k c (fun i s => s.campEvint i w1 arg.toNat) s
def execAddarea (k : CoreId) (c : Cluster) (w1 : Word) (s : State) : Out := portCmd k c (fun i s => s.campAddarea c i w1) s

end Sys2Proof.Machine
end

