-- ==== Sys2Proof/Machine/Crypto.lean ====
section
/-! DEFINITION. The standard algorithms that the spec names: SHA-384 (FIPS 180-4), AES-256 (FIPS 197), GCM (SP 800-38D)
and ECDSA over P-384 (FIPS 186), over lists of octets (R354, R586, R588). -/

namespace Sys2Proof.Machine

abbrev W64 := BitVec 64

/-! ## SHA-384 -/

/-- The numbers from 2 on that no smaller one divides: 80 of them lie below 410. -/
def primes : List Nat := (List.range 410).filter (fun p => 1 < p && (List.range p).all (fun d => d < 2 || p % d != 0))

/-- The greatest `r` with `r` to the `e` at most `m`, found bit by bit below bit `n`, above the bits in `r`. -/
def rootGo (e m : Nat) : Nat → Nat → Nat
  | 0, r => r
  | n + 1, r => rootGo e m n (if (r + 2 ^ n) ^ e ≤ m then r + 2 ^ n else r)

/-- The first 64 bits of the fraction of the `e`-th root of `p`. -/
def rootBits (e p : Nat) : W64 := BitVec.ofNat 64 (rootGo e (p * 2 ^ (64 * e)) 70 0)

/-- The round constants, from the cube roots of the first 80 primes, and the first chaining value, from the square roots of
the ninth to the sixteenth. -/
def shaConsts : List W64 := primes.map (rootBits 3)
def shaInit : List W64 := ((primes.drop 8).take 8).map (rootBits 2)

/-- The exclusive or of the rotations of a word to the right. -/
def rotations (x : W64) (l : List Nat) : W64 := l.foldl (fun y n => y ^^^ x.rotateRight n) 0

def be64 (l : List Octet) : W64 := BitVec.ofNat 64 (l.foldl (fun a o => a * 256 + o.toNat) 0)

/-- `n` octets of a number, most significant first. -/
def octsOf : Nat → Nat → List Octet
  | 0, _ => []
  | n + 1, v => octsOf n (v / 256) ++ [BitVec.ofNat 8 (v % 256)]

/-- The words of a block, the last first. -/
def blockWords : Nat → List Octet → List W64 → List W64
  | 0, _, w => w
  | n + 1, l, w => blockWords n (l.drop 8) (be64 (l.take 8) :: w)

/-- The `n` schedule words that follow, from the sixteen before, the last first. -/
def extend : Nat → List W64 → List W64
  | 0, w => w
  | n + 1, w =>
    let back (i : Nat) : W64 := (w[i - 1]?).getD 0
    let mix (x : W64) (r : List Nat) (sh : Nat) : W64 := rotations x r ^^^ (x >>> sh)
    extend n ((mix (back 2) [19, 61] 6 + back 7 + mix (back 15) [1, 8] 7 + back 16) :: w)

/-- The working variables a to h of a block's rounds. -/
structure ShaVars where
  lo : W64 × W64 × W64 × W64
  hi : W64 × W64 × W64 × W64

/-- One round with the sum `kw` of its constant and its schedule word. -/
def ShaVars.round (v : ShaVars) (kw : W64) : ShaVars :=
  let (a, b, c, d) := v.lo
  let (e, f, g, h) := v.hi
  let pick : W64 := g ^^^ (e &&& (f ^^^ g))
  let most : W64 := (a &&& (b ||| c)) ||| (b &&& c)
  let t : W64 := h + kw + pick + rotations e [14, 18, 41]
  { lo := (t + most + rotations a [28, 34, 39], a, b, c), hi := (d + t, e, f, g) }

def ShaVars.ofList (l : List W64) : ShaVars :=
  let g (i : Nat) : W64 := (l[i]?).getD 0
  { lo := (g 0, g 1, g 2, g 3), hi := (g 4, g 5, g 6, g 7) }

def ShaVars.toList (v : ShaVars) : List W64 :=
  [v.lo.1, v.lo.2.1, v.lo.2.2.1, v.lo.2.2.2, v.hi.1, v.hi.2.1, v.hi.2.2.1, v.hi.2.2.2]

/-- One block of 128 octets. -/
def shaBlock (h : List W64) (l : List Octet) : List W64 :=
  let kws := List.zipWith (· + ·) shaConsts (extend 64 (blockWords 16 l [])).reverse
  List.zipWith (· + ·) h (kws.foldl ShaVars.round (ShaVars.ofList h)).toList

def shaBlocks : Nat → List W64 → List Octet → List W64
  | 0, h, _ => h
  | n + 1, h, l => if l.length < 128 then h else shaBlocks n (shaBlock h (l.take 128)) (l.drop 128)

/-- The padding of a last part after which `total` octets have been absorbed. -/
def shaPad (l : List Octet) (total : Nat) : List Octet :=
  let z := (239 - l.length % 128) % 128
  l ++ [0x80] ++ List.replicate z 0 ++ octsOf 16 (8 * total)

/-- Absorbs the last octets and gives the 48 octets of the digest. -/
def shaFinish (h : List W64) (l : List Octet) (total : Nat) : List Octet :=
  let p := shaPad l total
  ((shaBlocks (p.length / 128) h p).take 6).flatMap (fun w => octsOf 8 w.toNat)

def sha384 (l : List Octet) : List Octet :=
  let n := l.length / 128
  shaFinish (shaBlocks n shaInit l) (l.drop (128 * n)) l.length

/-! ## AES-256 -/

/-- Doubling in the field of AES. -/
def xtime (x : Octet) : Octet := (x <<< 1) ^^^ (if x.msb then 0x1b else 0)

def gmulGo : Nat → Octet → Octet → Octet
  | 0, _, _ => 0
  | n + 1, a, b => (if b.getLsbD 0 then a else 0) ^^^ gmulGo n (xtime a) (b >>> 1)
def gmul (a b : Octet) : Octet := gmulGo 8 a b

/-- The inverse, by x^254; 0 stays 0. -/
def ginv (x : Octet) : Octet :=
  let x2 := gmul x x
  let x4 := gmul x2 x2
  let x8 := gmul x4 x4
  let x16 := gmul x8 x8
  let x32 := gmul x16 x16
  let x64 := gmul x32 x32
  let x128 := gmul x64 x64
  gmul x128 (gmul x64 (gmul x32 (gmul x16 (gmul x8 (gmul x4 x2)))))

def aesSbox (x : Octet) : Octet :=
  let b := ginv x
  b ^^^ b.rotateLeft 1 ^^^ b.rotateLeft 2 ^^^ b.rotateLeft 3 ^^^ b.rotateLeft 4 ^^^ 0x63

def xorO (a b : List Octet) : List Octet := List.zipWith (· ^^^ ·) a b

/-- The key schedule as a list of octets, grown four at a time; `i` is the number of the next word. -/
def aesExpand : Nat → Nat → Octet → List Octet → List Octet
  | 0, _, _, w => w
  | n + 1, i, rc, w =>
    let last := w.drop (4 * i - 4)
    let t := if i % 8 = 0 then xorO ((last.drop 1 ++ last.take 1).map aesSbox) [rc, 0, 0, 0]
             else if i % 8 = 4 then last.map aesSbox else last
    aesExpand n (i + 1) (if i % 8 = 0 then xtime rc else rc) (w ++ xorO ((w.drop (4 * i - 32)).take 4) t)

def aesSchedule (key : List Octet) : List Octet := aesExpand 52 8 1 key

def shiftRows (s : List Octet) : List Octet :=
  (List.range 16).map (fun i => (s[(i + 4 * (i % 4)) % 16]?).getD 0)

def mixCol (col : List Octet) : List Octet :=
  let g (i : Nat) : Octet := (col[i % 4]?).getD 0
  (List.range 4).map (fun i => xtime (g i) ^^^ (xtime (g (i + 1)) ^^^ g (i + 1)) ^^^ g (i + 2) ^^^ g (i + 3))

def mixColumns (s : List Octet) : List Octet := (List.range 4).flatMap (fun i => mixCol ((s.drop (4 * i)).take 4))

def roundKey (w : List Octet) (r : Nat) : List Octet := (w.drop (16 * r)).take 16

def aesRounds (w : List Octet) : Nat → Nat → List Octet → List Octet
  | 0, r, s => xorO (shiftRows (s.map aesSbox)) (roundKey w r)
  | n + 1, r, s => aesRounds w n (r + 1) (xorO (mixColumns (shiftRows (s.map aesSbox))) (roundKey w r))

/-- AES-256 on one block of 16 octets. -/
def aesBlock (key blk : List Octet) : List Octet :=
  let w := aesSchedule key
  aesRounds w 13 1 (xorO blk (roundKey w 0))

/-! ## GCM -/

def natOfOcts (l : List Octet) : Nat := l.foldl (fun a o => a * 256 + o.toNat) 0

def ghashGo : Nat → BitVec 128 → BitVec 128 → BitVec 128 → BitVec 128
  | 0, _, _, z => z
  | n + 1, x, v, z =>
    ghashGo n (x <<< 1) ((v >>> 1) ^^^ (if v.getLsbD 0 then 0xe1000000000000000000000000000000#128 else 0))
      (if x.msb then z ^^^ v else z)

/-- The product in the field of GCM. -/
def ghMul (x y : BitVec 128) : BitVec 128 := ghashGo 128 x y 0

def blk128 (l : List Octet) : BitVec 128 := BitVec.ofNat 128 (natOfOcts (l ++ List.replicate (16 - l.length) 0))

/-- Absorbs octets into GHASH, the last block filled up with zeros. -/
def ghash (h : BitVec 128) : Nat → BitVec 128 → List Octet → BitVec 128
  | 0, y, _ => y
  | n + 1, y, l => if l.isEmpty then y else ghash h n (ghMul (y ^^^ blk128 (l.take 16)) h) (l.drop 16)

def gcmH (key : List Octet) : BitVec 128 := blk128 (aesBlock key (List.replicate 16 0))

/-- The counter block: the 12-octet IV and a 32-bit count. -/
def gcmCtr (iv : List Octet) (n : Nat) : List Octet := iv.take 12 ++ octsOf 4 (n % 0x100000000)

/-- The key stream from counter `n` on over a text. -/
def gcmCrypt (key iv : List Octet) : Nat → Nat → List Octet → List Octet
  | 0, _, _ => []
  | f + 1, n, l => if l.isEmpty then [] else xorO (l.take 16) (aesBlock key (gcmCtr iv n)) ++ gcmCrypt key iv f (n + 1) (l.drop 16)

/-- The tag after GHASH value `y` with the lengths in octets. -/
def gcmTag (key iv : List Octet) (y : BitVec 128) (aad dat : Nat) : List Octet :=
  let h := gcmH key
  let y := ghMul (y ^^^ blk128 (octsOf 8 (8 * aad) ++ octsOf 8 (8 * dat))) h
  xorO (octsOf 16 y.toNat) (aesBlock key (gcmCtr iv 1))

/-- Decrypts a text with its additional data; none when the tag does not match. -/
def gcmOpen (key iv aad text tag : List Octet) : Option (List Octet) :=
  let h := gcmH key
  let y := ghash h (text.length / 16 + 1) (ghash h (aad.length / 16 + 1) 0 aad) text
  if gcmTag key iv y aad.length text.length = tag then some (gcmCrypt key iv (text.length / 16 + 1) 2 text) else none

/-! ## ECDSA over P-384 -/

def ecP : Nat := 2 ^ 384 - 2 ^ 128 - 2 ^ 96 + 2 ^ 32 - 1
def ecN : Nat := 0xffffffffffffffffffffffffffffffffffffffffffffffffc7634d81f4372ddf581a0db248b0a77aecec196accc52973
def ecB : Nat := 0xb3312fa7e23ee7e4988e056be3f82d19181d9c6efe8141120314088f5013875ac656398d8a2ed19d2a85c8edd3ec2aef
def ecGx : Nat := 0xaa87ca22be8b05378eb1c71ef320ad746e1d3b628ba79b9859f741e082542a385502f25dbf55296c3a545e3872760ab7
def ecGy : Nat := 0x3617de4a96262c6f5d9e98bf9292dc29f8f41dbd289a147ce9da3113b5f0b8c00a60b1ce1d7e819d7a431d7c90ea0e5f

def addP (a b : Nat) : Nat := (a + b) % ecP
def subP (a b : Nat) : Nat := (a + ecP - b % ecP) % ecP
def mulP (a b : Nat) : Nat := a * b % ecP

/-- `b` to the power `e` modulo `m`, over the low `n` bits of `e`. -/
def powMod (m : Nat) : Nat → Nat → Nat → Nat
  | 0, _, _ => 1 % m
  | n + 1, b, e => (if e % 2 = 1 then b else 1) * powMod m n (b * b % m) (e / 2) % m

/-- A point in Jacobian coordinates; Z = 0 is the point at infinity. -/
structure EcPt where
  x : Nat
  y : Nat
  z : Nat
  deriving DecidableEq, Repr

def ecDouble (p : EcPt) : EcPt :=
  let d := mulP p.z p.z
  let g := mulP p.y p.y
  let b := mulP p.x g
  let a := mulP 3 (mulP (subP p.x d) (addP p.x d))
  let x := subP (mulP a a) (mulP 8 b)
  { x := x, y := subP (mulP a (subP (mulP 4 b) x)) (mulP 8 (mulP g g)), z := mulP 2 (mulP p.y p.z) }

def ecAdd (p q : EcPt) : EcPt :=
  if p.z = 0 then q
  else if q.z = 0 then p
  else
    let z1 := mulP p.z p.z
    let z2 := mulP q.z q.z
    let u1 := mulP p.x z2
    let u2 := mulP q.x z1
    let s1 := mulP p.y (mulP z2 q.z)
    let s2 := mulP q.y (mulP z1 p.z)
    if u1 = u2 then (if s1 = s2 then ecDouble p else { x := 1, y := 1, z := 0 })
    else
      let h := subP u2 u1
      let r := subP s2 s1
      let h2 := mulP h h
      let h3 := mulP h h2
      let v := mulP u1 h2
      let x := subP (subP (mulP r r) h3) (mulP 2 v)
      { x := x, y := subP (mulP r (subP v x)) (mulP s1 h3), z := mulP h (mulP p.z q.z) }

/-- `k` times a point, over the low `n` bits of `k`. -/
def ecMul : Nat → Nat → EcPt → EcPt
  | 0, _, _ => { x := 1, y := 1, z := 0 }
  | n + 1, k, p => let r := ecMul n (k / 2) (ecDouble p); if k % 2 = 1 then ecAdd p r else r

/-- The affine x coordinate of a point that is not at infinity. -/
def ecAffX (p : EcPt) : Nat := mulP p.x (powMod ecP 384 (mulP p.z p.z) (ecP - 2))

/-- An uncompressed public key of 97 octets that names a point of the curve. -/
def ecKey (l : List Octet) : Option EcPt :=
  let x := natOfOcts ((l.drop 1).take 48)
  let y := natOfOcts ((l.drop 49).take 48)
  if l.length = 97 && l.headD 0 = 4 && x < ecP && y < ecP &&
     mulP y y = addP (subP (mulP x (mulP x x)) (mulP 3 x)) ecB then some { x := x, y := y, z := 1 } else none

/-- ECDSA verification of a SHA-384 digest. -/
def ecdsaVerify (key digest r s : List Octet) : Bool :=
  let r := natOfOcts r
  let s := natOfOcts s
  match ecKey key with
  | none => false
  | some q =>
    if r = 0 || ecN ≤ r || s = 0 || ecN ≤ s then false
    else
      let w := powMod ecN 384 s (ecN - 2)
      let p := ecAdd (ecMul 384 (natOfOcts digest * w % ecN) { x := ecGx, y := ecGy, z := 1 }) (ecMul 384 (r * w % ecN) q)
      p.z != 0 && ecAffX p % ecN = r

end Sys2Proof.Machine
end

