-- ==== Sys2Proof/Machine/Fabric.lean ====
section
/-! DEFINITION. The shared parts of the Caerquesel fabric (18): identities and epochs (R558-R563), routing (R555, R556),
sending a message (R553, R554), and the pairs' streams (R566, R567). -/

namespace Sys2Proof.Machine

/-! ## Epochs -/

/-- Epoch `e` is newer than `r` (R561). -/
def newer (e r : BitVec 16) : Bool := let d := (e - r).toNat; 1 ≤ d && d ≤ 32767

def Sys.modid (s : Sys) : Nat := s.img.modid.toNat
def Sys.peerOf (s : Sys) (ident : Nat) : Option Peer := s.img.peers.find? (fun p => p.ident = ident)
/-- The epoch record of an identity: LIVE and the epoch (DEDUCED, log 41). -/
def Sys.epochOf (s : Sys) (ident : Nat) : Bool × BitVec 16 := tget (false, (0 : BitVec 16)) s.fab.peers ident
def Sys.setEpoch (ident : Nat) (v : Bool × BitVec 16) (s : Sys) : Sys :=
  { s with fab := { s.fab with peers := tset s.fab.peers ident v } }

def Sys.epSlot (s : Sys) (n : Nat) : EpSlot := tget {} s.port.slots n
/-- This module's own slot is live in its epoch table. -/
def Sys.ownLive (s : Sys) : Bool := (s.epSlot s.img.mySlot).live
/-- A peer is live again: the active side of a DEGRADED pair with it starts again from SYNCING (R572), and copies both
buffers whole, since the standby has lost them (DEDUCED, log 64). -/
def Sys.peerUp (ident : Nat) (s : Sys) : Sys :=
  { s with fab := { s.fab with pairs := s.fab.pairs.map (fun x =>
      if x.2.st = 2 && s.tabs.img.pairs.any (fun p => p.part = x.1 && !p.standby && p.peer = ident) then
        (x.1, { x.2 with st := 0, sealed := 0, fullA := false, fullB := false, pend := none })
      else x) } }

/-! ## Routing and sending -/

/-- DEDUCED, log 41. -/
def Sys.routeOf (s : Sys) (dest : Nat) : Option Route :=
  (if dest / 64 = s.modid / 64 then s.img.members.find? (fun r => r.1 = dest % 64)
   else s.img.groups.find? (fun r => r.1 = dest / 64)).map (fun r => r.2)

def Sys.linkUp (s : Sys) (l : Nat) : Bool := (s.link l).st = 2

/-- The link that takes a packet now: the primary one, or a valid alternate. -/
def Sys.pickLink (s : Sys) (r : Route) : Option Nat :=
  if !r.v then none
  else if s.linkUp r.prim then some r.prim
  else if r.av && s.linkUp r.alt then some r.alt
  else none

def linkNo (n : Nat) : Link := Fin.ofNat 24 n

/-- The syllables of a packet: its header, its control double-word and its body (R553). -/
def packetSyls (p : Packet) : List Syl :=
  sylsW (mkw 36 [(1, p.vc), (7, p.typ), (25, p.dest.toNat), (32, 8 + p.body.length), (33, p.poison.toNat)]) ++
  sylsW (mkw 36 [(17, p.src.toNat), (33, p.sepoch.toNat)]) ++
  sylsD (mkd (mkw 36 [(15, p.depoch.toNat), (25, p.part), (35, p.status)])
    (mkw 36 [(15, p.tag.toNat), (18, p.seg), (19, p.last.toNat)])) ++ p.body

/-- The VC whose credits the next frame returns: the lowest that owes some (DESIGN CHOICE, log 100). -/
def CqLink.oweVc (l : CqLink) : Nat := l.owe.findIdx (fun n => n != 0) % 4

/-- The next frame of a link: the packet and the trailer's sequence number, credit return and CRC (R547). -/
def CqLink.frameOf (l : CqLink) (p : Packet) : Frame :=
  let x := packetSyls p
  { fseq := l.txSeq, packet := x, credVc := l.oweVc, credit := sat 65535 ((l.owe[l.oweVc]?).getD 0), crc := crc32c x, fecBad := false }

/-- The number of frames that a sender keeps (R548) (DEDUCED, log 63). -/
def keptFrames : Nat := 512

/-- Sends the packets of `ps` in order, those of a VC without credit excepted, which stay in the egress queue: each VC
stalls by itself (R28, R549). -/
def sendFrom : List Packet → CqLink → CqLink
  | [], l => l
  | p :: ps, l =>
    let c := (l.credits[p.vc]?).getD 0
    if c = 0 then sendFrom ps { l with egress := l.egress ++ [p] }
    else
      let f := l.frameOf p
      let sent := l.sent ++ [f]
      sendFrom ps { l with txSeq := l.txSeq + 1, credits := l.credits.set p.vc (c - 1),
                           owe := l.owe.set f.credVc ((l.owe[f.credVc]?).getD 0 - f.credit),
                           sent := sent.drop (sent.length - keptFrames) }

/-- The waiting packets of an UP link go as their credits allow. -/
def sendReady (l : CqLink) : CqLink := sendFrom l.egress { l with egress := [] }

/-- Puts a packet into a link's egress queue; an UP link sends what it can. A stall is counted once for each packet that finds
no credit when it is queued: what one count of R28 counts is not stated (DESIGN CHOICE, log 103). -/
def Sys.queueOn (l : Nat) (p : Packet) (s : Sys) : Sys :=
  let x : CqLink := { s.link l with egress := (s.link l).egress ++ [{ p with link := linkNo l }] }
  let y := sendReady x
  s.setLink l (if x.st != 2 then x
    else if (x.credits[p.vc]?).getD 0 = 0 then { y with stalls := y.stalls.set p.vc ((y.stalls[p.vc]?).getD 0 + 1) }
    else y)

/-- The link that the segments of a packet's message before it took (R554). -/
def Sys.pathOf (s : Sys) (p : Packet) : Option Nat :=
  if p.seg = 0 then none else (s.fab.paths.find? (fun x => x.1 = p.src.toNat && x.2.1 = p.tag)).map (fun x => x.2.2)

/-- Sends a packet by a link, which the rest of its message takes too (R554). -/
def Sys.sendBy (l : Nat) (p : Packet) (s : Sys) : Sys :=
  let t := s.fab.paths.filter (fun x => !(x.1 = p.src.toNat && x.2.1 = p.tag))
  Sys.queueOn l p { s with fab := { s.fab with paths := if p.last then t else (p.src.toNat, p.tag, l) :: t } }

/-- Puts a packet into the egress queue of its message's link, else of its route. A response or maintenance packet waits at its
entry's primary link while none is up, and apart from the links where its entry is not valid; false for a request or posting
that has no link (R554, R556) (DEDUCED, log 41). -/
def Sys.emit (p : Packet) (s : Sys) : Sys × Bool :=
  match s.pathOf p, (s.routeOf p.dest.toNat).filter (fun r => r.v) with
  | some l, _ => (s.sendBy l p, true)
  | none, some r =>
    match s.pickLink r with
    | some l => (s.sendBy l p, true)
    | none => if 2 ≤ p.vc then (s.sendBy r.prim p, true) else (s, false)
  | none, none =>
    if 2 ≤ p.vc then ({ s with fab := { s.fab with held := s.fab.held ++ [p] } }, true) else (s, false)

/-- A body cut into segments of 56 syllables, at most 8. -/
def segments : Nat → List Syl → List (List Syl)
  | 0, _ => []
  | n + 1, l => if l.length ≤ 56 then [l] else l.take 56 :: segments n (l.drop 56)

def emitAll : List Packet → Sys → Sys × Bool
  | [], s => (s, true)
  | p :: ps, s =>
    let r := s.emit p
    if r.2 then emitAll ps r.1 else (s, false)

/-- Sends a message of this module; false when it has no route. -/
def Sys.sendMsg (dest vc typ part status : Nat) (tag : BitVec 16) (poison : Bool) (body : List Syl) (s : Sys) : Sys × Bool :=
  let segs := segments 8 body
  let n := segs.length
  emitAll ((List.range n).map (fun i =>
    { link := 0, vc := vc, typ := typ, dest := BitVec.ofNat 18 dest, src := s.img.modid, sepoch := s.port.epoch,
      depoch := (s.epochOf dest).2, part := part, status := status, tag := tag, seg := i, last := i + 1 = n,
      poison := poison, body := (segs[i]?).getD [] })) s

/-- A message whose answer 515, when it is a request or posting without a link, has no further effect here: its sender tries
again by its own rules, or not at all (DESIGN CHOICE, log 65). -/
def Sys.sendOff (dest vc typ part status : Nat) (tag : BitVec 16) (body : List Syl) (s : Sys) : Sys :=
  (s.sendMsg dest vc typ part status tag false body).1

/-! ## Receiving (R562) -/

/-- A saturating 12-bit count. -/
def sat12 (n : Nat) : Nat := sat 4095 n

/-- A NAK with a 51x status for a request or posting, counted at the link it came by. -/
def Sys.nak (h : PktHdr) (status : Nat) (s : Sys) : Sys :=
  let l := s.link h.link
  (s.setLink h.link { l with naks := sat12 (l.naks + 1) }).sendOff h.src.toNat 2 0o25 h.part status h.tag []

/-- A packet of a peer whose SEPOCH is newer updates its record with LIVE = 1 (R561). -/
def Sys.sawEpoch (h : PktHdr) (s : Sys) : Sys :=
  let id := h.src.toNat
  let r := s.epochOf id
  if (s.peerOf id).any (fun p => !p.companion) && newer h.sepoch r.2 then
    (if r.1 then s else s.peerUp id).setEpoch id (true, h.sepoch)
  else s

/-- The checks of R562; the answer says whether the message is acted on. -/
def Sys.rxCheck (h : PktHdr) (req : Bool) (s : Sys) : Sys × Bool :=
  let id := h.src.toNat
  match s.peerOf id with
  | none => if req then (s.nak h 513, false) else (s, true)
  | some p =>
    if p.companion then (s, true)
    else
      let r := s.epochOf id
      if !s.ownLive then (if req then ((s.sawEpoch h).nak h 510, false) else (s.sawEpoch h, true))
      else if newer r.2 h.sepoch || (r.2 = h.sepoch && !r.1) then
        if req then (s.nak h 511, false)
        else
          let l := s.link h.link
          (s.setLink h.link { l with stale := sat12 (l.stale + 1), telStale := l.telStale + 1 }, false)
      else
        let s := s.sawEpoch h
        if req && h.depoch != s.port.epoch then (s.nak h 512, false) else (s, true)

/-! ## Pairs (R566-R572) -/

def Sys.pairOf (s : Sys) (p : Nat) : Option Pair := s.img.pairs.find? (fun x => x.part = p)
def Sys.pairSt (s : Sys) (p : Nat) : PairSt := tget {} s.fab.pairs p
def Sys.setPair (p : Nat) (v : PairSt) (s : Sys) : Sys := { s with fab := { s.fab with pairs := tset s.fab.pairs p v } }

/-- The active side of a pair whose stream runs. -/
def Sys.streaming (s : Sys) (p : Nat) : Option Pair :=
  match s.pairOf p with
  | some x => if !x.standby && (s.pairSt p).st ≤ 1 then some x else none
  | none => none

/-- Tags of the messages of the pairing engines. -/
def pstrmTag (n : Nat) : BitVec 16 := BitVec.ofNat 16 (0xD000 + n % 4096)
def psealTag (p : Nat) : BitVec 16 := BitVec.ofNat 16 (0xE000 + p)
def pckdTag (p : Nat) : BitVec 16 := BitVec.ofNat 16 (0xE400 + p)
def prdTag (p : Nat) : BitVec 16 := BitVec.ofNat 16 (0xE800 + p)

/-- Notes the highest sequence number that the active side of a pair has committed (R568). -/
def Sys.noteSeq (p : Nat) (rec : List Syl) (s : Sys) : Sys :=
  match s.pairOf p with
  | some x => if x.standby then s else s.setPair p { s.pairSt p with top := max (s.pairSt p).top (dwordOf (rec.take 8)).toNat }
  | none => s

/-- Sends a commit record to the standby; the stream sequence it took. -/
def Sys.stream (p : Nat) (rec : List Syl) (s : Sys) : Sys × Option Nat :=
  let s := s.noteSeq p rec
  match s.streaming p with
  | none => (s, none)
  | some x =>
    let st := s.pairSt p
    let n := st.sseq + 1
    ((s.setPair p { st with sseq := n }).sendOff x.peer 0 0o02 p 0 (pstrmTag n) (sylsD (BitVec.ofNat 72 n) ++ rec), some n)

/-- Every stream record of the pairs, by `f`. -/
def Sys.mapStream (f : StrRec → StrRec) (s : Sys) : Sys :=
  { s with fab := { s.fab with pairs := s.fab.pairs.map (fun x => (x.1, { x.2 with recs := x.2.recs.map f })) } }

/-- The Journal Writer issues a Flush for a ring to the devices that are online; its number (R274). -/
def Sys.flushIssued (q : Nat) (s : Sys) : Nat × Sys :=
  let b := s.bu q
  let n := b.batch + 1
  (n, s.setBu q { b with batch := n, fl0 := if s.j0up then b.fl0 ++ [n] else b.fl0,
                         fl1 := if s.j1up then b.fl1 ++ [n] else b.fl1 })

/-- A Flush of a device covers a quadrant's stream records whose Writes came before it (R274, R567). -/
def Sys.streamFlushed (q : Nat) (dev : Bool) (n : Nat) (s : Sys) : Sys :=
  s.mapStream (fun r => if r.quad = q && r.wrote && r.batch ≤ n then
    (if dev then { r with need1 := false } else { r with need0 := false }) else r)

/-! ## The journal devices (R599) -/

/-- A commit record in MARKMAP form: its 128 data octets and their 16 bitmap octets (R76). -/
def journalOctets (l : List Syl) : List Octet :=
  l.map octet ++ (List.range 16).map (fun i => markOctet (((l.drop (8 * i)).take 8).map mark))

/-- A block of up to 28 records (SEQ, syllables) of a ring; the room of missing records holds zeros (DESIGN CHOICE, log 89). -/
def blockOf (q : Nat) (l : List (Nat × List Syl)) : JBlock :=
  let recs := l.map (fun r => journalOctets r.2)
  let os := recs.flatMap id
  { quad := q, seqn := ((l.head?).map (fun r => r.1)).getD 0, count := l.length,
    crc := crcOctets (os ++ List.replicate (4032 - os.length) 0), recs := recs }

def blocksOf (q : Nat) : Nat → List (Nat × List Syl) → List JBlock
  | 0, _ => []
  | n + 1, l => if l.isEmpty then [] else blockOf q (l.take 28) :: blocksOf q n (l.drop 28)

/-- One Write of records: their blocks go to every device that is online. -/
def Sys.deviceWrite (q : Nat) (l : List (Nat × List Syl)) (s : Sys) : Sys :=
  let bs := (blocksOf q l.length l).reverse
  { s with jdev0 := if s.j0up then bs ++ s.jdev0 else s.jdev0, jdev1 := if s.j1up then bs ++ s.jdev1 else s.jdev1 }

/-- Stream records that met no online device are written to the device that has come online. -/
def Sys.streamOnline (s : Sys) : Sys :=
  (List.range 4).foldl (fun s q =>
    let l := s.fab.pairs.flatMap (fun x => x.2.recs.filter (fun r => r.quad = q && !r.wrote))
    if l.isEmpty then s
    else
      let f := (s.deviceWrite q (l.map (fun r => ((dwordOf (r.data.take 8)).toNat, r.data)))).flushIssued q
      f.2.mapStream (fun r => if r.quad = q && !r.wrote then
        { r with wrote := true, batch := f.1, need0 := f.2.j0up, need1 := f.2.j1up } else r)) s

def strDurable (r : StrRec) : Bool := r.wrote && !r.need0 && !r.need1

/-- The highest stream sequence from `n` on up to which every record is durable. -/
def contiguous : Nat → List StrRec → Nat → Nat
  | 0, _, n => n
  | f + 1, l, n => if l.any (fun r => r.sseq = n + 1 && strDurable r) then contiguous f l (n + 1) else n

/-- Answers PACK when more of a standby's stream has become durable. -/
def Sys.packStream (p : Nat) (s : Sys) : Sys :=
  match s.pairOf p with
  | some x =>
    let st := s.pairSt p
    let n := contiguous st.recs.length st.recs st.sseq
    if !x.standby || n = st.sseq then s
    else (s.setPair p { st with sseq := n }).sendOff x.peer 2 0o23 p 0 (pstrmTag n) (sylsD (BitVec.ofNat 72 n))
  | none => s

def Sys.packStreams (s : Sys) : Sys := (s.fab.pairs.map (fun x => x.1)).foldl (fun (s : Sys) p => s.packStream p) s

/-- DEDUCED, log 64. -/
def bufBase (x : Pair) (b : Bool) : Nat := if b then x.bufB else x.bufA

/-- A seal at the standby: the buffer is adopted when its CRC matches what was received; else 532 (DEDUCED, log 64). It
waits while a Balance Unit holds a line of the buffer (R262). -/
def Sys.adoptSeal (x : Pair) (m : SealMsg) (s : Sys) : Sys :=
  let p := m.hdr.part
  let st := s.pairSt p
  let dat := st.got.flatMap (fun l => l.2.1)
  let ok := dat.length = m.len && crc32c dat = m.crc && (!st.hasSeal || m.buf != st.buf)
  let base := bufBase x m.buf
  if ok && st.got.any (fun l => s.spanLocked (base + l.1) l.2.1.length) then s.setPair p { st with late := some m }
  else
    let n := st.sealed + 1
    let s := if ok then
        (st.got.foldl (fun (s : Sys) l => s.remoteWrite (base + l.1) l.2.1 l.2.2) s).setPair p
          { st with got := [], late := none, hasSeal := true, buf := m.buf, s0 := m.s0, sealed := n,
                    st := if 2 ≤ n then 1 else st.st }
      else s.setPair p { st with got := [], late := none }
    s.sendOff m.hdr.src.toNat 2 0o23 p (if ok then 0 else 532) m.hdr.tag []

/-- Seals that waited for a line try again. -/
def Sys.retrySeals (s : Sys) : Sys :=
  s.img.pairs.foldl (fun s x => match (s.pairSt x.part).late with
    | some m => if x.standby then s.adoptSeal x m else s
    | none => s) s

/-- Quadrant of the link on which a message arrived (R278): six links to a quadrant. -/
def quadOfLink (l : Link) : Nat := l.val / 6

/-- Quadrant of the pairing engine that takes a stream: the engines stand beside the journal root ports, in Q1 and Q2 (R21); which
of them serves a link is not stated (DESIGN CHOICE, log 64). -/
def streamQuad (l : Link) : Nat := if quadOfLink l < 2 then 1 else 2

end Sys2Proof.Machine
end

