-- ==== Sys2Proof/Machine/Posting.lean ====
section
/-! DEFINITION. The Balance Unit (08): descriptors, locks and wounds, the record checks of step 6, the journal, the
sequence allocator, the commit point, and the ends of a posting. -/

namespace Sys2Proof.Machine

/-! ## The descriptor (R253, R254) -/

/-- A descriptor as POST or PREP has read it. -/
structure Desc where
  hdr  : List Word
  legs : List (DWord × List Syl)
  deriving DecidableEq, Repr

def Desc.word (d : Desc) (i : Nat) : Word := (d.hdr[i]?).getD 0
def Desc.nleg (d : Desc) : Nat := fld (d.word 0) 0 4
def Desc.ncur (d : Desc) : Nat := fld (d.word 0) 5 6
/-- DEDUCED, log 41. -/
def Desc.dur (d : Desc) : Bool := kbit (d.word 0) 7
def Desc.fmt (d : Desc) : Nat := fld (d.word 0) 14 19
def Desc.part (d : Desc) : Nat := fld (d.word 0) 20 29
def Desc.tmo (d : Desc) : Nat := fld (d.word 1) 0 15
def Desc.pid (d : Desc) : DWord := mkd (d.word 2) (d.word 3)
def Desc.curD (d : Desc) : DWord := mkd (d.word 4) (d.word 5)
/-- Currency codes of the slots that NCUR counts. -/
def Desc.curs (d : Desc) : List Nat := (List.range (d.ncur + 1)).map (fun k => fld d.curD (18 * k + 8) (18 * k + 17))

def nlegOk (n : Nat) : Bool := 2 ≤ n && n ≤ 16

def legOf (i : Nat) (x : DWord × List Syl) : Leg :=
  { idx := i, rmt := kbit x.1 0, cix := fld x.1 1 2, ident := fld x.1 3 20, lpart := fld x.1 21 30, resv := kbit x.1 31,
    addr := fld x.1 32 71, amt := x.2 }

def Desc.legList (d : Desc) : List Leg := (List.range d.legs.length).filterMap (fun i => (d.legs[i]?).map (legOf i))

def wordsOf (l : List Syl) : List Word := (List.range (l.length / 4)).map (fun i => wordOf ((l.drop (4 * i)).take 4))
def legSyls (l : List Syl) (i : Nat) : DWord × List Syl :=
  let m := l.drop (24 * i)
  (dwordOf (m.take 8), (m.drop 8).take 16)

/-- R255 on PART, for a submitter of world `cust` (DEDUCED, log 37). -/
def Sys.partOk (s : Sys) (cust : Bool) (own p : Nat) : Bool := if cust then (s.part p).st != 0 else p = own

/-- R255 on a leg's partition, by this module's partition table: at the coordinator it judges the LPART of a remote leg too,
before any PREP is sent, and the participant judges it again by its own (DEDUCED, logs 37 and 90). -/
def Sys.groupOk (s : Sys) (p lp : Nat) : Bool := lp = p || ((s.part p).pgrp != 0 && (s.part p).pgrp = (s.part lp).pgrp)

def dupNat : List Nat → Bool
  | [] => false
  | a :: l => l.contains a || dupNat l

/-- The 210 checks that the header allows (DEDUCED, log 37). -/
def Desc.hdrBad (d : Desc) : Bool :=
  fld (d.word 0) 8 13 != 0 || fld (d.word 0) 30 35 != 0 || fld (d.word 1) 16 35 != 0 || d.word 6 != 0 || d.word 7 != 0 ||
  (List.range 4).any (fun k => fld d.curD (18 * k) (18 * k + 7) != 0) ||
  d.curs.any (fun c => 999 < c) || dupNat d.curs

/-- DEDUCED, log 37. -/
def legBad (l : Leg) (ncur : Nat) : Bool := l.resv || (!l.rmt && l.ident != 0) || ncur < l.cix

/-! ## Record formats (R256) -/

def fHF (f : DWord) : Bool := kbit f 1
def fHL (f : DWord) : Bool := kbit f 2
def fHS (f : DWord) : Bool := kbit f 3
def fHC (f : DWord) : Bool := kbit f 4
def fBOFF (f : DWord) : Nat := fld f 5 10
def fBLEN (f : DWord) : Nat := fld f 11 15 + 1
def fFOFF (f : DWord) : Nat := fld f 16 21
def fFLEN (f : DWord) : Nat := fld f 22 26 + 1
def fLOFF (f : DWord) : Nat := fld f 39 41
def fSOFF (f : DWord) : Nat := fld f 42 47
def fSMASK (f : DWord) : Nat := fld f 48 55
def fCOFF (f : DWord) : Nat := fld f 56 61
def fDCUR (f : DWord) : Nat := fld f 62 71

/-! ## Phases and ages (R260, R265) -/

def Phase.past (p : Phase) : Bool := p = .durWait || p = .kind2Wait || p = .ackWait
/-- Prepared: 201 reported, or a participant that has answered PREPARED. -/
def Phase.prep (p : Phase) : Bool := p = .prepared || p = .partReady
/-- The posting has become prepared: it is, or COMMIT has gone to it since (R252). -/
def Posting.ready (p : Posting) : Bool :=
  p.phase.prep || ((p.op = 2 || p.coord.isSome) && (p.phase = .seqWait || p.phase.past))
/-- A posting that PREP made, or one with remote legs: a prepared posting of this module as coordinator (DEDUCED, log 91). -/
def Posting.isPrep (p : Posting) : Bool := p.coord.isNone && (p.op != 0 || !p.others.isEmpty)

def ageKey (a : Age) : List Nat := [a.stamp, a.ident, a.quad, a.slot]
def lexLt : List Nat → List Nat → Bool
  | a :: l, b :: m => a < b || (a = b && lexLt l m)
  | _, _ => false
/-- The first is the older one. -/
def older (a b : Age) : Bool := lexLt (ageKey a) (ageKey b)

def Sys.posting (s : Sys) (q n : Nat) : Option Posting := tfind (s.bu q).posts n
def Sys.setPosting (q n : Nat) (p : Posting) (s : Sys) : Sys :=
  let b := s.bu q
  s.setBu q { b with posts := tset b.posts n p }
/-- Lines that no posting holds any more: what waited for them goes on (R262, R429). -/
def Sys.unlock (lines : List Nat) (s : Sys) : Sys :=
  if lines.isEmpty then s
  else (lines.foldl (fun (s : Sys) ln => s.setDir ln { s.dir ln with owner := none }) s).retryLate.serveTrackers

/-- A posting leaves its slot and its locks, and no record waits for that slot any more. -/
def Sys.dropPosting (q n : Nat) (s : Sys) : Sys :=
  let b := s.bu q
  let locks := ((tfind b.posts n).map (fun p => p.locks)).getD []
  (s.setBu q { b with posts := terase b.posts n,
                      recs := b.recs.map (fun r => if r.slot = some n then { r with slot := none } else r) }).unlock locks

/-- Tag of a posting's messages. -/
def postTag (q n : Nat) : BitVec 16 := BitVec.ofNat 16 (0xC000 + q * 1024 + n)

/-! ## Completion records (R287, R288) -/

def postRecord (p : Posting) (status leg seq modr : Nat) (dur : Bool) : List Syl :=
  sylsD p.pid ++ sylsD (BitVec.ofNat 72 seq) ++
    wordsToSyls [mkw 36 [(9, status), (14, leg), (15, dur.toNat), (19, p.op)], mkw 36 [(17, modr)], 0, 0]

/-- Writes a record into partition `r`'s ring, in a slot that was reserved for it, and raises source 3; one that finds the ring closed
keeps its slot and waits (R287, R465). -/
def Sys.putRecord (q r : Nat) (rec : List Syl) (task : Word) (s : Sys) : Sys :=
  let s := s.flushOwed q
  let pt := s.part r
  if !s.ringOpen pt.pcr 32 || (s.bu q).owed.any (fun o => o.1 = r) then
    s.setBu q { s.bu q with owed := (s.bu q).owed ++ [(r, rec, task)] }
  else ((s.unreserveOne r).ringPut 1 pt.pcr 32 rec).eventTo task .posting

/-- A posting's record, which uses one of its reserved slots (DEDUCED, log 41). -/
def Sys.report (q : Nat) (p : Posting) (status leg seq modr : Nat) (dur : Bool) (s : Sys) : Sys :=
  match p.ring with
  | none => s
  | some r =>
    if p.quiet then s
    else s.putRecord q r (postRecord p status leg seq modr dur) p.task.2

/-- Gives back the completion-ring slots that a posting did not use. -/
def Sys.unreserve (p : Posting) (s : Sys) : Sys :=
  match p.ring with
  | none => s
  | some r =>
    let pt := s.part r
    if p.quiet then s else s.setPart r { pt with resP := pt.resP - p.resv }

/-- Tells the modules that a posting's PREP has gone to, to abort: one that failed before step 4 has told nobody (R259, R286)
(DEDUCED, log 38). -/
def Sys.abortOthers (q n : Nat) (p : Posting) (s : Sys) : Sys :=
  p.told.foldl (fun s m => s.sendOff m 1 0o12 p.part 0 (postTag q n) (sylsD p.pid)) s

/-- Answers a participant's coordinator (R278, R279). -/
def Sys.answer (p : Posting) (status leg : Nat) (s : Sys) : Sys :=
  match p.coord with
  | some (m, cp, _, tag) => s.sendOff m 2 0o21 cp status tag (sylsD p.pid ++ wordsToSyls [BitVec.ofNat 36 leg])
  | none => s

/-- Ends a posting before its commit point: its locks go, and the submitter or the coordinator is told. -/
def Sys.fail (q n status leg modr : Nat) (s : Sys) : Sys :=
  match s.posting q n with
  | none => s
  | some p =>
    let s := s.dropPosting q n
    if p.coord.isSome then s.answer p status leg
    else ((s.abortOthers q n p).report q p status leg 0 modr false).unreserve { p with resv := p.resv - 1 }

/-! ## Record checks (R259 steps 2, 3 and 6) -/

def legAmt (l : Leg) : Int := packedVal (l.amt.map octet)

/-- Step 2: the first leg whose amount is invalid. -/
def badAmount (ls : List Leg) : Option Nat := (ls.find? (fun l => (packedBad (l.amt.map octet) 0).isSome)).map (fun l => l.idx)

def sumAmts (ls : List Leg) : Int := (ls.map legAmt).foldl (· + ·) 0

/-- Step 3: a currency's legs do not sum to zero. -/
def unbalanced (ncur : Nat) (ls : List Leg) : Bool :=
  (List.range (ncur + 1)).any (fun c => sumAmts (ls.filter (fun l => l.cix = c)) != 0)

/-- How a record stands the checks of step 6: the status that fails, with the leg that fails it where it is one leg. -/
inductive RecR where
  | bad (status : Nat) (leg : Option Nat)
  | ok (image : List (Nat × Syl))
  deriving DecidableEq, Repr

/-- The numeric code of a currency field (R258), or none when it is not valid. -/
def curField (l : List Octet) : Option Nat :=
  match l with
  | [a, b] => if hiNib a < 10 && loNib a < 10 && hiNib b < 10 && (loNib b = 12 || loNib b = 15)
              then some (hiNib a * 100 + loNib a * 10 + hiNib b) else none
  | _ => none

/-- Step 6 for the record in line `a` with its legs. -/
def Sys.recordCheck (s : Sys) (f : DWord) (curs : List Nat) (a : Nat) (ls : List Leg) : RecR :=
  let field (o n : Nat) : List Octet := (s.rd (a + o) n).map octet
  let cur := if fHC f then curField (field (fCOFF f) 2) else some (fDCUR f)
  let bal := field (fBOFF f) (fBLEN f)
  let flo := field (fFOFF f) (fFLEN f)
  let net := sumAmts ls
  let new := packedVal bal + net
  let wrong := ls.find? (fun l => cur != some ((curs[l.cix]?).getD 1000))
  if s.poisonedSpan a 64 then .bad 213 none
  else if wrong.isSome then .bad 213 (wrong.map (fun l => l.idx))
  else if (packedBad bal 0).isSome || (fHF f && (packedBad flo 0).isSome) then .bad 213 none
  else if fHS f && ((s.rd (a + fSOFF f) 1).headD 0).toNat % 256 &&& fSMASK f != 0 then .bad 219 none
  else if decOverflows new.natAbs (2 * fBLEN f - 1) then .bad 220 none
  else if net < 0 && fHF f && new < packedVal flo then .bad 216 none
  else
    let os := packedOf (fBLEN f) new.natAbs (decide (new < 0))
    let sy := octetsOver (s.rd (a + fBOFF f) (fBLEN f)) os
    .ok ((List.range sy.length).map (fun i => (a + fBOFF f + i, (sy[i]?).getD 0)))

/-- Local legs of a posting with their lines. -/
def Posting.local (p : Posting) : List (Leg × Nat) :=
  p.legs.filterMap (fun l => (tfind p.lines l.idx).map (fun a => (l, a)))

/-- Step 6 for every locked record, in ascending address order: the image, or the status and the leg. A failure of the whole
record names the lowest leg of it (DESIGN CHOICE, log 92). -/
def Sys.allRecords (s : Sys) (p : Posting) (f : DWord) : List Nat → Except (Nat × Nat) (List (Nat × Syl))
  | [] => .ok []
  | ln :: lns =>
    let ls := (p.local.filter (fun x => x.2 / 64 = ln)).map (fun x => x.1)
    match s.recordCheck f p.curs (ln * 64) ls with
    | .bad st leg => .error (st, leg.getD ((ls.head?.map (fun l => l.idx)).getD 31))
    | .ok im => match s.allRecords p f lns with
      | .ok r => .ok (im ++ r)
      | .error e => .error e

/-! ## The journal (R272-R276) -/

def Sys.ringSize (s : Sys) : Nat := 2 ^ (12 + s.img.rsz)
/-- Ring positions in use: from the oldest record that is not durable on. -/
def Bu.used (b : Bu) : Nat :=
  match b.recs with
  | r :: _ => b.jpos - r.pos
  | [] => 0
def Bu.reserved (b : Bu) : Nat := (b.posts.map (fun p => p.2.jres)).foldl (· + ·) 0
def Sys.jspace (s : Sys) (q : Nat) : Nat := s.ringSize - (s.bu q).used - (s.bu q).reserved

/-- Commit records of `n` local legs; a posting without one still has its first record, which carries the rest of R273
(DESIGN CHOICE, log 41). -/
def nrecs (n : Nat) : Nat := if n = 0 then 1 else (n + 3) / 4

/-- A commit record (R273) with up to four legs. -/
def commitRecord (s : Sys) (p : Posting) (kind nleg first seq : Nat) (link : DWord) (ls : List (Leg × Nat)) : List Syl :=
  let leg (i : Nat) : List Syl := match ls[i]? with
    | some (l, a) => sylsD (mkw 72 [(0, 1), (2, l.cix), (71, a)]) ++ l.amt
    | none => List.replicate 24 0
  sylsD (BitVec.ofNat 72 seq) ++ sylsD p.pid ++
    wordsToSyls [mkw 36 [(3, kind), (8, nleg), (14, p.fmt), (24, p.part), (29, first)],
                 mkw 36 [(17, s.modid), (29, s.img.shelf.toNat)]] ++
    sylsD link ++ leg 0 ++ leg 1 ++ leg 2 ++ leg 3

/-- Appends one record, and streams it when the partition is paired (R567). -/
def Sys.appendRec (q : Nat) (p : Posting) (kind seq : Nat) (waits : Option Nat) (rec : List Syl) (s : Sys) : Sys :=
  let b := s.bu q
  let s := match s.img.jrings[q]? with
    | some base => s.wrBy 1 (base + 128 * (b.jpos % s.ringSize)) rec
    | none => s
  let r := s.stream p.part rec
  r.1.setBu q { b with jpos := b.jpos + 1,
                       recs := b.recs ++ [{ pos := b.jpos, part := p.part, seqn := seq, kind := kind, slot := waits,
                                            pack := r.2 }] }

def Sys.appendChunks (q : Nat) (p : Posting) (kind seq nleg : Nat) (link : DWord) (waits : Option Nat) :
    Nat → Nat → List (Leg × Nat) → Sys → Sys
  | 0, _, _, s => s
  | fuel + 1, first, ls, s =>
    let k := if first = 0 then kind else 5
    let s := s.appendRec q p k seq waits (commitRecord s p k nleg first seq (if first = 0 then link else 0) (ls.take 4))
    if (ls.drop 4).isEmpty then s
    else Sys.appendChunks q p kind seq nleg link waits fuel (first + 4) (ls.drop 4) s

/-- Appends the records of a posting. -/
def Sys.append (q : Nat) (p : Posting) (kind seq : Nat) (link : DWord) (waits : Option Nat) (s : Sys) : Sys :=
  s.appendChunks q p kind seq p.local.length link waits 4 0 p.local

/-- LINK of kinds 1 and 4 (R273). -/
def coordLink (p : Posting) : DWord :=
  match p.coord with
  | some (m, cp, _, _) => mkd (mkw 36 [(17, m), (27, cp)]) 0
  | none => 0

/-! ## The allocator (R269-R271) -/

def Sys.leaseSize (s : Sys) : Nat := 2 ^ (s.img.lsize + 6)

/-- Asks for a lease, once, while the module's slot is live and it has rejoined (R542, R573). -/
def Sys.askLease (s : Sys) : Sys :=
  if s.alloc.asking || !s.ownLive || s.port.joining then s
  else (({ s with alloc := { s.alloc with asking := true } } : Sys)).launch (.lease s.img.lsize)

/-- The next number in the leases: leases with none left are dropped. -/
def takeFrom (next floor : Nat) : List (Nat × Nat) → Option (Nat × List (Nat × Nat))
  | [] => none
  | (f, e) :: l =>
    let n := max (max next f) (floor + 1)
    if n ≤ e then some (n, (f, e) :: l) else takeFrom next floor l

def Sys.takeNumber (s : Sys) : Option (Nat × Sys) :=
  match takeFrom s.alloc.next s.alloc.floor s.alloc.leases with
  | none => none
  | some (n, ls) =>
    let s : Sys := { s with alloc := { s.alloc with leases := ls, next := n + 1, highest := n } }
    let low : Bool := match ls with
      | [(f, e)] => decide (4 * (e - n) < e + 1 - f)
      | _ => false
    some (n, if low then s.askLease else s)

/-- No number above the floor is left: the leases are discarded and a fresh one is asked for (R271). -/
def Sys.noNumber (s : Sys) : Sys := (({ s with alloc := { s.alloc with leases := [] } } : Sys)).askLease

/-- A posting at step 9 asks for its number, which the allocator assigns when it has one (R261). -/
def Sys.askNumber (q n : Nat) (s : Sys) : Sys :=
  match s.posting q n with
  | none => s
  | some p =>
    if p.num.isSome then s
    else match s.takeNumber with
      | some (k, s) => s.setPosting q n { p with num := some k }
      | none => s.noNumber

/-- Numbers assigned to postings that have not yet committed. -/
def Sys.assigned (s : Sys) : List Nat := s.bus.flatMap (fun b => b.2.posts.filterMap (fun p => p.2.num))

/-- Raises the floor (R271). -/
def Sys.raiseFloor (n : Nat) (s : Sys) : Sys := { s with alloc := { s.alloc with floor := max s.alloc.floor n } }

/-! ## The durable horizon (R275) -/

/-- A number assigned to a posting of the partition counts while the posting may still commit under it (DEDUCED, log 93). -/
def Sys.horizon (s : Sys) (p : Nat) : Nat :=
  let open' := s.bus.flatMap (fun b => b.2.posts.filterMap (fun x => if x.2.part = p then x.2.num else none))
  let recs := (s.bus.flatMap (fun b => b.2.recs)).filterMap (fun r => if r.part = p && r.seqn != 0 then some r.seqn else none)
  (open' ++ recs).foldl (fun m n => min m (n - 1)) s.alloc.highest

/-! ## The commit point (R260, R259 step 10) -/

/-- Stamps the sequence number into a record and writes its new balance. -/
def Sys.applyRecord (f : DWord) (n : Nat) (s : Sys) (line : Nat) : Sys :=
  let s := s.touchStore 1 (line * 64) true
  if fHL f then s.put (line * 64 + 8 * fLOFF f) (sylsD (BitVec.ofNat 72 n)) else s

/-- The new images and sequence numbers of a posting's records, in the unit's line buffers and then in memory (R262). -/
def Sys.applyImage (f : DWord) (n : Nat) (p : Posting) (s : Sys) : Sys :=
  let s := p.locks.foldl (Sys.applyRecord f n) s
  let s := p.image.foldl (fun s x => s.put x.1 [x.2]) s
  p.locks.foldl (fun (s : Sys) line => s.writeBack { line := line, dirty := true }) s

/-- The posting past its commit point, under number `sq`, while it waits for its records. -/
def Posting.committed (p : Posting) (ph : Phase) (sq : Nat) : Posting :=
  { p with phase := ph, seqn := sq, num := none, locks := [], image := [], jres := 0, recs := nrecs p.local.length }

/-- Step 10 of the posting under its number `sq` (R260). -/
def Sys.accept (q n sq : Nat) (p : Posting) (s : Sys) : Sys :=
  let s := s.applyImage (tget 0 s.tabs.formats p.fmt) sq p
  if p.coord.isSome then
    ((s.dropPosting q n).append q p 3 sq (BitVec.ofNat 72 p.seqn) none).answer p 0 31
  else if !p.others.isEmpty then ((s.setPosting q n (p.committed .kind2Wait sq)).unlock p.locks).append q p 2 sq 0 (some n)
  else if p.dur then ((s.setPosting q n (p.committed .durWait sq)).unlock p.locks).append q p 0 sq 0 (some n)
  else
    let s := (s.dropPosting q n).append q p 0 sq 0 none
    (s.report q p 0 31 sq s.modid false).unreserve { p with resv := p.resv - 1 }

/-- The number of the posting at (q, n) arrives. The posting waits, parked, while the allocator has none (R270), and while a
posting with a lower number of this module has yet to accept it (R268) (DEDUCED, log 93). -/
def Sys.commitPoint (q n : Nat) (s : Sys) : Sys :=
  match s.posting q n with
  | none => s
  | some p =>
    if p.phase != .seqWait then s
    else if p.wounded && p.coord.isNone then s.fail q n 215 31 s.modid
    else
      let s := s.askNumber q n
      match (s.posting q n).bind (fun p => p.num) with
      | none => s
      | some sq => if s.assigned.any (fun k => k < sq) then s else s.accept q n sq p

/-! ## Steps 4 to 8 -/

/-- Step 8: all answers are in, or there are none to wait for. -/
def Sys.step8 (q n : Nat) (s : Sys) : Sys :=
  match s.posting q n with
  | none => s
  | some p =>
    if p.coord.isSome then
      -- a participant journals its prepare (R279)
      let k := nrecs p.local.length
      let s := s.setPosting q n { p with phase := .kind1Wait, recs := k, jres := k }
      s.append q p 1 0 (coordLink p) (some n)
    else if p.others.any (fun o => !o.2.1) then s.setPosting q n { p with phase := .partWait }
    else if p.op = 1 then
      let s := s.setPosting q n { p with phase := .prepared, resv := p.resv - 1 }
      s.report q p 201 31 0 s.modid false
    else (s.setPosting q n { p with phase := .seqWait }).askNumber q n

/-- Step 7: ring space, or the wait for it. A participant reserves for its decision record as well. -/
def Sys.step7 (q n : Nat) (s : Sys) : Sys :=
  match s.posting q n with
  | none => s
  | some p =>
    let k := if p.coord.isSome then 2 * nrecs p.local.length else nrecs p.legs.length
    if !s.j0up && !s.j1up then s.fail q n 225 31 s.modid
    else if s.jspace q < k then s.setPosting q n { p with phase := .ringWait }
    else (s.setPosting q n { p with jres := k }).step8 q n

/-- Step 6. -/
def Sys.step6 (q n : Nat) (s : Sys) : Sys :=
  match s.posting q n with
  | none => s
  | some p =>
    match s.allRecords p (tget 0 s.tabs.formats p.fmt) p.locks with
    | .error e => s.fail q n e.1 e.2 s.modid
    | .ok im => (s.setPosting q n { p with image := im }).step7 q n

/-- The posting that holds a line's lock (DEDUCED, log 39). -/
def Sys.holder (s : Sys) (line : Nat) : Option (Nat × Nat × Posting) :=
  ((s.bus.flatMap (fun b => b.2.posts.map (fun p => (b.1, p.1, p.2)))).find? (fun x => x.2.2.locks.contains line))

/-- An older posting is parked for the line. -/
def Sys.olderWaits (s : Sys) (line : Nat) (a : Age) : Bool :=
  s.bus.any (fun b => b.2.posts.any (fun p => p.2.phase = .lockWait && p.2.want.head? = some line && older p.2.age a))

/-- A Balance Unit fetches a record's line and owns it from then on; no cache keeps it (R262, R427). -/
def Sys.lockLine (q line : Nat) (s : Sys) : Sys :=
  let s := s.dirRoom line
  let s := if (s.dir line).owner.isNone then s.readLine 1 line else s
  (s.buLine (buAgent q) line true).touchStore 1 (line * 64) false

/-- Step 5: takes locks in ascending address order, parked while another posting holds a line or the home agent has it in state T
(R262, R429). A younger holder before its
commit point is wounded, be it when the older posting meets it or when it takes a line ahead of one that is parked
(R266) (DEDUCED, log 39). A newly accepted posting may take a free line ahead of one parked for it (DESIGN CHOICE,
log 94). -/
def Sys.takeLocks (q n : Nat) : Nat → Sys → Sys
  | 0, s => s
  | fuel + 1, s =>
    match s.posting q n with
    | none => s
    | some p =>
      match p.want with
      | [] => s.step6 q n
      | ln :: rest =>
        match s.holder ln with
        | none =>
          if !s.lineFree ln then s.setPosting q n { p with phase := .lockWait }
          else Sys.takeLocks q n fuel ((s.lockLine q ln).setPosting q n
            { p with locks := p.locks ++ [ln], want := rest, phase := .lockWait, wounded := p.wounded || s.olderWaits ln p.age })
        | some (hq, hn, h) =>
          let s := s.setPosting q n { p with phase := .lockWait }
          if older p.age h.age && !h.phase.past then s.setPosting hq hn { h with wounded := true } else s

/-- Lines in ascending order, each once. -/
def sortLines (l : List Nat) : List Nat := l.foldl (fun t a => ninsert t (a / 64)) []

/-- The bodies of PREP (R278). The spec gives its content and no layout: each leg in the layout of R254 after a header
(DEDUCED, log 38). -/
def prepBody (p : Posting) (ls : List Leg) : List Syl :=
  sylsD (BitVec.ofNat 72 p.age.stamp) ++
    wordsToSyls [mkw 36 [(17, p.age.ident), (21, p.age.quad), (35, p.age.slot)],
                 mkw 36 [(5, p.fmt), (15, p.part), (31, p.tmo)]] ++
    sylsD p.pid ++ wordsToSyls (p.curs.map (fun c => BitVec.ofNat 36 c)) ++
    ls.flatMap (fun l => sylsD (mkw 72 [(0, 1), (2, l.cix), (20, l.ident), (30, l.lpart), (71, l.addr)]) ++
      l.amt)

/-- Sends PREP to each module; a module without a route ends the posting with 515 (R556, R562) (DEDUCED, log 38). -/
def Sys.sendPreps (q n : Nat) (p : Posting) : List Nat → Sys → Sys × Option Nat
  | [], s => (s, none)
  | m :: ms, s =>
    let r := s.sendMsg m 1 0o10 p.part 0 (postTag q n) false (prepBody p (p.legs.filter (fun l => l.rmt && l.ident = m)))
    if r.2 then Sys.sendPreps q n { p with told := p.told ++ [m] } ms (r.1.setPosting q n { p with told := p.told ++ [m] })
    else (r.1, some m)

/-- Step 4 for the local legs: the lines, or the first leg that fails. -/
def Sys.legLines (s : Sys) : List Leg → Except Nat (Tbl Nat)
  | [] => .ok []
  | l :: ls =>
    if l.rmt then s.legLines ls
    else if l.addr % 64 != 0 then .error l.idx
    else match s.dxtXlate l.lpart l.addr 64 true with
      | .ok false a => (match s.legLines ls with
        | .ok t => .ok ((l.idx, a) :: t)
        | .error e => .error e)
      | _ => .error l.idx

/-- The unit reads the extent-table entries of the local legs, up to the first leg that fails (R475, R417). -/
def Sys.legReads : List Leg → Sys → Sys
  | [], s => s
  | l :: ls, s =>
    if l.rmt then Sys.legReads ls s
    else if l.addr % 64 != 0 then s
    else
      let s := s.dxtRead 1 l.lpart l.addr
      match s.dxtXlate l.lpart l.addr 64 true with
      | .ok false _ => Sys.legReads ls s
      | _ => s

/-- Steps 2 to 8 of an accepted posting; a participant leaves step 3 to its coordinator. -/
def Sys.process (q n : Nat) (s : Sys) : Sys :=
  match s.posting q n with
  | none => s
  | some p =>
    match badAmount p.legs with
    | some i => s.fail q n 211 i s.modid
    | none =>
      if p.coord.isNone && unbalanced (p.curs.length - 1) p.legs then s.fail q n 212 31 s.modid
      else
        let s := s.legReads p.legs
        match s.legLines p.legs with
        | .error i => s.fail q n 213 i s.modid
        | .ok t =>
          let want := sortLines (t.map (fun x => x.2))
          let mods := p.others.map (fun o => o.1)
          let p := { p with lines := t, want := want }
          let r := (s.setPosting q n p).sendPreps q n p mods
          match r.2 with
          | some _ => r.1.fail q n 515 31 s.modid
          | none => r.1.takeLocks q n (want.length + 1)

/-! ## Acceptance (R250, R252, R287) -/

/-- In progress: from acceptance until the posting ends or becomes prepared (R252). -/
def Bu.inProgress (b : Bu) : List Posting := (b.posts.map (fun p => p.2)).filter (fun p => !p.ready)
def Bu.prepares (b : Bu) : List Posting :=
  (b.posts.map (fun p => p.2)).filter (fun p => p.isPrep || p.coord.isSome)
/-- Line locks that postings hold or have reserved; one whose locks are released needs none. -/
def lockSum (l : List Posting) : Nat :=
  ((l.filter (fun p => !p.phase.past && p.phase != .abortWait)).map (fun p => p.legs.length)).foldl (· + ·) 0

/-- The unit and the quotas have room for a posting of `nleg` legs. -/
def Sys.roomFor (s : Sys) (q nleg : Nat) (prep : Bool) (part : Option Nat) : Bool :=
  let b := s.bu q
  let all := b.posts.map (fun p => p.2)
  b.inProgress.length < 64 && (!prep || b.prepares.length < 512) && lockSum all + nleg ≤ 9216 &&
  (match part with
   | none => true
   | some p =>
     let e := s.part p
     let mine (l : List Posting) : List Posting := l.filter (fun x => x.ring = some p || (x.coord.isSome && x.part = p))
     (mine b.inProgress).length < e.progq && (!prep || (mine b.prepares).length < e.prepq) &&
       lockSum (mine all) + nleg ≤ e.lockq)

/-- The partition's completion ring has `k` free slots beyond the reserved ones (DEDUCED, log 38). -/
def Sys.ringRoom (s : Sys) (part : Option Nat) (k : Nat) : Bool :=
  match part with
  | none => true
  | some p => s.ringFree (s.part p).pcr ((s.part p).resP + (k - 1))

/-- DEDUCED, log 39. -/
def Sys.freeSlot (s : Sys) (q : Nat) : Option Nat := firstBelow 576 (fun n => (tfind (s.bu q).posts n).isNone)

/-- A live prepared posting of a submitter (R645). -/
def Sys.findPrep (s : Sys) (q : Nat) (sub : Option Nat) (pid : DWord) : Option (Nat × Posting) :=
  (s.bu q).posts.find? (fun p => p.2.phase = .prepared && p.2.sub = sub && p.2.pid = pid && p.2.coord.isNone)

/-- 224: a live posting of the submitter with this PID, other than `n`, that is or will be a prepared one (DEDUCED, log 91). -/
def Sys.dupPrep (s : Sys) (q n : Nat) (sub : Option Nat) (pid : DWord) : Bool :=
  (s.bu q).posts.any (fun p => p.1 != n && p.2.isPrep && p.2.sub = sub && p.2.pid = pid)

def dedup : List Nat → List Nat
  | [] => []
  | a :: l => let r := dedup l; if r.contains a then r else a :: r

/-- The submitter of a context: its PARTID, or the Custody world without a partition (R645). -/
def submitter (x : Ctx) : Option Nat := if x.noPart then none else some x.part

/-- Accepts a descriptor and runs it as far as it goes; none while the unit has no room. -/
def Sys.submit (q : Nat) (x : Ctx) (prep : Bool) (d : Desc) (s : Sys) : Option Sys :=
  let sub := submitter x
  let pok := s.partOk x.custody x.part d.part
  let ring := if pok then some d.part else sub
  let legs := d.legList
  let k := if prep then 2 else 1
  match s.freeSlot q with
  | none => none
  | some n =>
    let mods := dedup ((legs.filter (fun l => l.rmt)).map (fun l => l.ident))
    if !s.roomFor q legs.length (prep || !mods.isEmpty) ring || !s.ringRoom ring k then none
    else
      let b := s.bu q
      let p : Posting :=
        { slot := n, op := prep.toNat, sub := sub, part := ring.getD 0, ring := ring, pid := d.pid, dur := d.dur,
          fmt := d.fmt, tmo := if d.tmo = 0 then 10000 else d.tmo, curs := d.curs, legs := legs,
          age := { stamp := s.port.count, ident := s.modid, quad := q, slot := n },
          task := (taskClus x.taskid, x.taskid), phase := .lockWait,
          others := mods.map (fun m => (m, false, false)), ord := b.accepts, resv := k }
      let s := match ring with
        | some r => s.setPart r { s.part r with resP := (s.part r).resP + k }
        | none => s
      let s := s.setBu q { b with accepts := b.accepts + 1, posts := tset b.posts n p }
      if d.hdrBad || !pok then some (s.fail q n 210 31 s.modid)
      else if !nlegOk d.nleg then some (s.fail q n 214 31 s.modid)
      else match legs.find? (fun l => legBad l d.ncur || !s.groupOk d.part l.lpart) with
        | some l => some (s.fail q n 210 l.idx s.modid)
        | none =>
          if (tfind s.tabs.formats d.fmt).isNone then some (s.fail q n 214 31 s.modid)
          else if (prep || !mods.isEmpty) && s.dupPrep q n sub d.pid then some (s.fail q n 224 31 s.modid)
          else some (s.process q n)

/-! ## What ends or moves a waiting posting -/

/-- Postings of a unit that wait for a line, oldest first. -/
def Sys.waiters (s : Sys) (q line : Nat) : List (Nat × Posting) :=
  let l := (s.bu q).posts.filter (fun p => p.2.phase = .lockWait && p.2.want.head? = some line)
  match l.find? (fun p => l.all (fun r => r.1 = p.1 || older p.2.age r.2.age)) with
  | some p => [p]
  | none => l.take 1

/-- LOCK_RELEASE: the oldest parked posting of the unit that waits for the line goes on. -/
def Sys.lockRelease (q line : Nat) (s : Sys) : Sys :=
  if (s.holder line).isSome then s
  else match s.waiters q line with
    | p :: _ => s.takeLocks q p.1 (p.2.want.length + 1)
    | [] => s

/-- WOUND (R267) (DEDUCED, log 39). -/
def Sys.wound (q n : Nat) (s : Sys) : Sys :=
  match s.posting q n with
  | none => s
  | some p =>
    if !p.wounded || p.phase.past then s
    else if p.phase = .partReady || (p.coord.isSome && p.phase = .seqWait) then
      (s.setPosting q n { p with wounded := false }).answer p 215 31
    else s.fail q n 215 31 s.modid

/-- A participant ends without a number: its kind 4 record, in ring space kept for it or in free space, for which it waits
without locks (R276, R281). -/
def Sys.partEnd (q n : Nat) (p : Posting) (s : Sys) : Sys :=
  if p.jres = 0 && s.jspace q < nrecs p.local.length then
    (s.setPosting q n { p with phase := .abortWait, locks := [], want := [], image := [] }).unlock p.locks
  else (s.dropPosting q n).append q p 4 0 (coordLink p) none

/-- A waiter for ring space tries again. -/
def Sys.spaceFor (q n : Nat) (s : Sys) : Sys :=
  match s.posting q n with
  | none => s
  | some p => if p.phase = .ringWait then s.step7 q n else if p.phase = .abortWait then s.partEnd q n p else s

/-- JOURNAL_SPACE: those that wait for ring space try again, in order of acceptance. -/
def Sys.journalSpace (q : Nat) (s : Sys) : Sys := (s.bu q).posts.foldl (fun s p => s.spaceFor q p.1) s

/-- A record of posting `n` has become durable. -/
def Sys.durableFor (q n : Nat) (s : Sys) : Sys :=
  match s.posting q n with
  | none => s
  | some p =>
    if 1 < p.recs then s.setPosting q n { p with recs := p.recs - 1 }
    else
      let p := { p with recs := 0 }
      match p.phase with
      | .durWait => ((s.dropPosting q n).report q p 0 31 p.seqn s.modid true).unreserve { p with resv := p.resv - 1 }
      | .kind1Wait => (s.setPosting q n { p with phase := .partReady }).answer p 201 31
      | .kind2Wait =>
        let s := s.setBu q { s.bu q with kind2 := (s.bu q).kind2 ++ [(p.pid, p.seqn)] }
        p.others.foldl (fun s o => s.sendOff o.1 1 0o11 p.part 0 (postTag q n) (sylsD p.pid ++ sylsD (BitVec.ofNat 72 p.seqn)))
          (s.setPosting q n { p with phase := .ackWait })
      | _ => s.setPosting q n p

/-- The record has left every device and standby it waits for (DEDUCED, log 40). -/
def JRec.durable (r : JRec) : Bool := r.wrote && !r.need0 && !r.need1 && r.pack.isNone

/-- Takes the durable records out of a ring and tells their postings. -/
def Sys.settle (q : Nat) (s : Sys) : Sys :=
  let b := s.bu q
  let done := b.recs.filter JRec.durable
  let s := s.setBu q { b with recs := b.recs.filter (fun r => !r.durable) }
  done.foldl (fun s r => match r.slot with
    | some n => s.durableFor q n
    | none => s) s

def Sys.recAddr (s : Sys) (q pos : Nat) : Nat := (s.img.jrings[q]?).getD 0 + 128 * (pos % s.ringSize)

/-- The records that have no Write yet, up to one that cannot be read (R448): those whose Write is issued under Flush `n`,
with their data, and whether the ring stops. -/
def Sys.writeRecs (s : Sys) (q n : Nat) : List JRec → List JRec × List (Nat × List Syl) × Bool
  | [] => ([], [], false)
  | r :: rs =>
    let a := s.recAddr q r.pos
    if r.wrote then
      let t := s.writeRecs q n rs
      (r :: t.1, t.2)
    else if s.poisonedSpan a 128 then (r :: rs, [], true)
    else
      let t := s.writeRecs q n rs
      ({ r with wrote := true, batch := n, need0 := s.j0up, need1 := s.j1up } :: t.1, (r.seqn, s.rd a 128) :: t.2.1, t.2.2)

/-- JOURNAL_WRITE: the Journal Writer writes the appended records in MARKMAP form to every device that is online, and issues
the Flush that covers them (R274, R599). -/
def Sys.journalWrite (q : Nat) (s : Sys) : Sys :=
  if (!s.j0up && !s.j1up) || (s.bu q).stuck then s
  else
    let s := ((s.bu q).recs.filter (fun r => !r.wrote)).foldl (fun (s : Sys) r => s.fetchFor 3 (s.recAddr q r.pos) 128) s
    let t := s.writeRecs q ((s.bu q).batch + 1) (s.bu q).recs
    let s := if t.2.1.isEmpty then s else
      let f := (s.deviceWrite q t.2.1).flushIssued q
      f.2.setBu q { f.2.bu q with recs := t.1 }
    if t.2.2 then (s.setBu q { s.bu q with stuck := true }).custodyNotice (3 * q) 2 else s

/-- A record whose Write came before Flush `n` of a device no longer waits for that device. -/
def JRec.flushed (dev : Bool) (n : Nat) (r : JRec) : JRec :=
  if r.wrote && r.batch ≤ n then (if dev then { r with need1 := false } else { r with need0 := false }) else r

/-- The oldest Flush of device `dev` (false J0, true J1) for a ring completes and covers the Writes issued before it
(DEDUCED, log 40). -/
def Sys.flushComplete (q : Nat) (dev : Bool) (s : Sys) : Sys :=
  let b := s.bu q
  match (if dev then b.fl1 else b.fl0) with
  | [] => s
  | n :: l =>
    let b := if dev then { b with fl1 := l } else { b with fl0 := l }
    (((s.setBu q { b with recs := b.recs.map (JRec.flushed dev n) }).settle q).streamFlushed q dev n).packStreams

/-- The standby has acknowledged a partition's stream up to `n`, or durability no longer needs it. -/
def Sys.packUpTo (p : Nat) (n : Option Nat) (s : Sys) : Sys :=
  (List.range 4).foldl (fun s q =>
    let b := s.bu q
    let f (r : JRec) : JRec := if r.part = p && (match n, r.pack with
        | some m, some k => k ≤ m
        | _, _ => true) then { r with pack := none } else r
    (s.setBu q { b with recs := b.recs.map f }).settle q) s

/-- Every posting for which `f` holds and which may end does so with `status`. -/
def Sys.failAll (f : Posting → Bool) (status modr : Nat) (s : Sys) : Sys :=
  (s.bus.flatMap (fun b => (b.2.posts.filter (fun p => f p.2)).map (fun p => (b.1, p.1)))).foldl
    (fun s x => s.fail x.1 x.2 status 31 modr) s

/-- A participant that has not yet answered PREPARED, or a posting of this module before its commit point. -/
def Posting.open (p : Posting) : Bool :=
  !p.phase.past && (p.coord.isNone || p.phase = .lockWait || p.phase = .ringWait || p.phase = .kind1Wait)

/-- A device goes offline: its Flushes never complete. With both offline every open posting ends with 225 (R276)
(DEDUCED, log 40). -/
def Sys.deviceOffline (dev : Bool) (s : Sys) : Sys :=
  let s : Sys := { s with j0up := s.j0up && dev, j1up := s.j1up && !dev,
                          bus := s.bus.map (fun b => (b.1, if dev then { b.2 with fl1 := [] } else { b.2 with fl0 := [] })) }
  if s.j0up || s.j1up then s else s.failAll Posting.open 225 s.modid

def Sys.deviceOnline (dev : Bool) (s : Sys) : Sys :=
  Sys.streamOnline (if dev then { s with j1up := true } else { s with j0up := true })

/-! ## Partition reset (R286) -/

/-- A participant that is not yet prepared ends with a reset of the partition of any of its legs (DESIGN CHOICE, log 95). -/
def Sys.resetPosting (p : Nat) (s : Sys) (x : Nat × Nat) : Sys :=
  match s.posting x.1 x.2 with
  | none => s
  | some t =>
    if t.coord.isSome then
      if t.legs.any (fun l => l.lpart = p) && t.open then s.fail x.1 x.2 218 31 s.modid else s
    else if t.part != p || t.ring.isNone then s
    else if t.phase.past then s.setPosting x.1 x.2 { t with quiet := true }
    else (s.dropPosting x.1 x.2).abortOthers x.1 x.2 t

def Sys.resetPostings (p : Nat) (s : Sys) : Sys :=
  let s := (s.bus.flatMap (fun b => b.2.posts.map (fun t => (b.1, t.1)))).foldl (Sys.resetPosting p) s
  let s := (List.range 4).foldl (fun s q => s.setBu q { s.bu q with owed := (s.bu q).owed.filter (fun o => o.1 != p) }) s
  s.setPart p { s.part p with resP := 0 }

/-! ## Messages of cross-module postings (R278-R285) -/

/-- A participant's partition on this module: that of its first leg (DEDUCED, log 38). -/
def prepPart (m : PrepMsg) : Nat := (m.legs.head?.map (fun l => l.lpart)).getD 0

/-- A unit accepts a PREP when it has room for it (R252, R278). A format that this module's table lacks is 214 here too
(DESIGN CHOICE, log 38). -/
def Sys.takePrep (h : PktHdr) (m : PrepMsg) (s : Sys) : Option Sys :=
  let q := quadOfLink h.link
  let part := prepPart m
  match s.freeSlot q with
  | none => none
  | some n =>
    if !s.roomFor q m.legs.length true (some part) then none
    else
      let b := s.bu q
      let p : Posting :=
        { slot := n, op := 1, sub := none, part := part, ring := none, pid := m.pid, dur := false, fmt := m.fmt,
          tmo := m.tmo, curs := m.curs, legs := m.legs.map (fun l => { l with rmt := false }), age := m.age,
          task := (0, 0), phase := .lockWait, coord := some (h.src.toNat, m.cpart, h.link.val, h.tag), ord := b.accepts }
      let s := s.setBu q { b with accepts := b.accepts + 1, posts := tset b.posts n p }
      match m.legs.find? (fun l => (s.part l.lpart).st = 0 || !s.groupOk m.cpart l.lpart) with
      | some l => some (s.fail q n 210 l.idx s.modid)
      | none =>
        if (tfind s.tabs.formats m.fmt).isNone then some (s.fail q n 214 31 s.modid) else some (s.process q n)

/-- PREP at a participant: it waits, in order, while the unit has no room (R29, R252) (DEDUCED, log 38). -/
def Sys.prepPacket (h : PktHdr) (m : PrepMsg) (s : Sys) : Sys :=
  let q := quadOfLink h.link
  let r := s.rxCheck h true
  if !r.2 then r.1
  else
    let wait := r.1.setBu q { r.1.bu q with preps := (r.1.bu q).preps ++ [(h, m)] }
    if !(r.1.bu q).preps.isEmpty then wait else (r.1.takePrep h m).getD wait

/-- PREP messages of a unit that waited are taken while there is room. -/
def Sys.retryPreps (q : Nat) : List (PktHdr × PrepMsg) → Sys → Sys
  | [], s => s
  | x :: l, s =>
    match s.takePrep x.1 x.2 with
    | some t => Sys.retryPreps q l (t.setBu q { t.bu q with preps := l })
    | none => s

/-- After postings have ended or lines have been released: what waited for a line or for room goes on (R29, R262). -/
def Sys.balance (s : Sys) : Sys :=
  ((List.range 4).foldl (fun s q => s.retryPreps q (s.bu q).preps) s).drainAll.retrySeals

/-- The coordinator's posting that a message's tag and PID name, when the sender is one of its modules. -/
def Sys.coordOf (s : Sys) (h : PktHdr) (pid : DWord) : Option (Nat × Nat × Posting) :=
  (s.bus.flatMap (fun b => b.2.posts.map (fun p => (b.1, p.1, p.2)))).find?
    (fun x => x.2.2.coord.isNone && x.2.2.pid = pid && postTag x.1 x.2.1 = h.tag &&
      x.2.2.others.any (fun o => o.1 = h.src.toNat))

def markOther (m : Nat) (f : Nat × Bool × Bool → Nat × Bool × Bool) (l : List (Nat × Bool × Bool)) :
    List (Nat × Bool × Bool) := l.map (fun o => if o.1 = m then f o else o)

/-- PANS at the coordinator. -/
def Sys.pans (h : PktHdr) (pid : DWord) (leg : Nat) (s : Sys) : Sys :=
  let r := s.rxCheck h false
  if !r.2 then r.1
  else
    let s := r.1
    match s.coordOf h pid with
    | none => s
    | some (q, n, p) =>
      let m := h.src.toNat
      if h.status = 201 then
        let s := s.setPosting q n { p with others := markOther m (fun o => (o.1, true, o.2.2)) p.others }
        if p.phase = .partWait then s.step8 q n else s
      else if h.status = 0 then
        let p := { p with others := markOther m (fun o => (o.1, o.2.1, true)) p.others }
        if p.phase = .ackWait && p.others.all (fun o => o.2.2) then
          ((s.dropPosting q n).report q p 0 31 p.seqn s.modid true).unreserve { p with resv := p.resv - 1 }
        else s.setPosting q n p
      else if p.phase.past then s
      else s.fail q n h.status leg m

/-- The participant's posting that `f` picks by its coordinator, for a PID. -/
def Sys.partOfMsg (s : Sys) (f : Nat × Nat × Nat × BitVec 16 → Bool) (pid : DWord) : Option (Nat × Nat × Posting) :=
  (s.bus.flatMap (fun b => b.2.posts.map (fun p => (b.1, p.1, p.2)))).find?
    (fun x => x.2.2.pid = pid && x.2.2.coord.any f)

/-- The coordinator is the source of the message. -/
def fromCoord (h : PktHdr) (c : Nat × Nat × Nat × BitVec 16) : Bool := c.1 = h.src.toNat

/-- The answer to a RESOLVE: of the coordinator, or, once the coordinator's record is not live, of the standby that answers
for it, with the tag of the PREP (R285) (DEDUCED, log 96). -/
def Sys.forCoord (s : Sys) (h : PktHdr) (c : Nat × Nat × Nat × BitVec 16) : Bool :=
  c.1 = h.src.toNat || (c.2.2.2 = h.tag && !(s.epochOf c.1).1)

/-- A decision to commit reaches a participant that is prepared (R281). -/
def Sys.partCommit (f : Nat × Nat × Nat × BitVec 16 → Bool) (pid : DWord) (sq : Nat) (s : Sys) : Sys :=
  match s.partOfMsg f pid with
  | some (q, n, p) =>
    if p.phase = .partReady then
      ((s.setPosting q n { p with phase := .seqWait, seqn := sq }).raiseFloor sq).commitPoint q n
    else s
  | none => s

/-- A decision to abort: the legs are released and a kind 4 record is appended (R281). -/
def Sys.partAbort (f : Nat × Nat × Nat × BitVec 16 → Bool) (pid : DWord) (s : Sys) : Sys :=
  match s.partOfMsg f pid with
  | some (q, n, p) => if p.phase = .seqWait || p.phase = .abortWait then s else s.partEnd q n p
  | none => s

def Sys.commitPacket (h : PktHdr) (pid sq : DWord) (s : Sys) : Sys :=
  let r := s.rxCheck h true
  if r.2 then r.1.partCommit (fromCoord h) pid sq.toNat else r.1

/-- ABORT at a participant; a PREP that still waits for room goes with it, and leaves no record (DESIGN CHOICE, log 38). -/
def Sys.abortPacket (h : PktHdr) (pid : DWord) (s : Sys) : Sys :=
  let r := s.rxCheck h true
  if r.2 then
    let q := quadOfLink h.link
    let b := r.1.bu q
    (r.1.setBu q { b with preps := b.preps.filter (fun x => !(x.1.src = h.src && x.2.pid = pid)) }).partAbort (fromCoord h) pid
  else r.1

/-- The decision that this module holds for a PID: its own kind 2 records, and those of a failed side (R285). -/
def Sys.decision (s : Sys) (pid : DWord) : Option Nat :=
  match (s.bus.flatMap (fun b => b.2.kind2)).find? (fun x => x.1 = pid) with
  | some x => some x.2
  | none =>
    let recs := s.fab.pairs.flatMap (fun p => if p.2.st = 3 then p.2.recs.map (fun r => r.data) else [])
    (recs.find? (fun r => fld (wordOf ((r.drop 16).take 4)) 0 3 = 2 && dwordOf ((r.drop 8).take 8) = pid)).map
      (fun r => (dwordOf (r.take 8)).toNat)

/-- A coordinator's posting with this PID has passed its commit point, and its kind 2 record is not yet durable. -/
def Sys.undecided (s : Sys) (pid : DWord) : Bool :=
  s.bus.any (fun b => b.2.posts.any (fun p => p.2.coord.isNone && p.2.pid = pid && p.2.phase = .kind2Wait))

/-- RESOLVE is answered by the decision; while a kind 2 record is not yet durable there is no answer (R280, R284, R291)
(DEDUCED, log 96). -/
def Sys.resolve (h : PktHdr) (pid : DWord) (s : Sys) : Sys :=
  let r := s.rxCheck h true
  if !r.2 then r.1
  else
    let s := r.1
    let d := s.decision pid
    if d.isNone && s.undecided pid then s
    else s.sendOff h.src.toNat 2 0o22 h.part 0 h.tag
      (sylsD pid ++ wordsToSyls [BitVec.ofNat 36 d.isSome.toNat] ++ sylsD (BitVec.ofNat 72 (d.getD 0)))

def Sys.resolved (h : PktHdr) (pid : DWord) (ok : Bool) (sq : DWord) (s : Sys) : Sys :=
  let r := s.rxCheck h false
  if !r.2 then r.1
  else if ok then r.1.partCommit (r.1.forCoord h) pid sq.toNat else r.1.partAbort (r.1.forCoord h) pid

/-- PREP_TIMEOUT (R282). -/
def Sys.prepTimeout (q n : Nat) (s : Sys) : Sys :=
  match s.posting q n with
  | some p =>
    if p.coord.isNone && !p.phase.past && (p.op != 0 || !p.others.isEmpty) then s.fail q n 221 31 s.modid else s
  | none => s

/-- RESOLVE_TIMER (R284). -/
def Sys.resolveTimer (q n : Nat) (s : Sys) : Sys :=
  match s.posting q n with
  | some p =>
    match p.coord with
    | some (m, cp, _, tag) => if p.phase = .partReady then s.sendOff m 1 0o13 cp 0 tag (sylsD p.pid) else s
    | none => s
  | none => s

/-- A module is declared dead before the commit point of postings that name it (R283). -/
def Sys.remoteLost (m : Nat) (s : Sys) : Sys :=
  s.failAll (fun p => p.coord.isNone && !p.phase.past && p.others.any (fun o => o.1 = m)) 222 s.modid |>.balance

end Sys2Proof.Machine
end

