-- ==== Sys2Proof/Machine/Shelf.lean ====
section
/-! DEFINITION. The port's side of the shelf locks (17 R535-R538): SLACQ, SLREL, grants and withdrawals. -/

namespace Sys2Proof.Machine

def Sys.lockReqs (s : Sys) (lock : Nat) : List LockReq := tget [] s.port.locks lock
def Sys.setLockReqs (lock : Nat) (l : List LockReq) (s : Sys) : Sys :=
  { s with port := { s.port with locks := if l.isEmpty then terase s.port.locks lock else tset s.port.locks lock l } }

/-- The first of the port's requests goes to the bus, once the module neither holds nor awaits the lock (R536). -/
def Sys.lockAdvance (lock : Nat) (s : Sys) : Sys :=
  match s.lockReqs lock with
  | r :: rs => if r.st = .queued then (s.setLockReqs lock ({ r with st := .sent } :: rs)).launch (.lkacq lock r.part) else s
  | [] => s

/-- The entry of a requester; one that is being withdrawn is its no more. -/
def findReq (l : List LockReq) (part : Option Nat) : Option LockReq := l.find? (fun r => r.part = part && r.st != .leaving)

/-- The lock is in the window of the level (R535). -/
def Sys.inWindow (s : Sys) (x : Ctx) (lock : Nat) : Bool :=
  x.custody || (!x.noPart && (s.part x.part).lkfirst ≤ lock && lock < (s.part x.part).lkfirst + (s.part x.part).lkcnt)

def requester (x : Ctx) : Option Nat := if x.custody || x.noPart then none else some x.part

/-- SLACQ: the status and the effect (R535, R536, R542) (DEDUCED, log 43). -/
def Sys.slacq (x : Ctx) (g : Word) (s : Sys) : Nat × Sys :=
  let lock := fld g 24 35
  if fld g 0 23 != 0 || !s.inWindow x lock then (521, s)
  else if !s.joined then (501, s)
  else if !s.ownLive then (510, s)
  else
    let l := s.lockReqs lock
    match findReq l (requester x) with
    | some r =>
      match r.st with
      | .held => (523, s)
      | .granted ab _ => (if ab then 217 else 0, s.setLockReqs lock (l.map (fun q => if q = r then { q with st := .held } else q)))
      | _ => (520, s)
    | none =>
      (520, (s.setLockReqs lock (l ++ [{ part := requester x, task := (taskClus x.taskid, x.taskid), st := .queued }])).lockAdvance lock)

/-- Gives the first entry of a lock back by `c` and goes on to the next. -/
def Sys.lockDrop (lock : Nat) (c : BusMsg) (s : Sys) : Sys :=
  ((s.setLockReqs lock ((s.lockReqs lock).drop 1)).launch c).lockAdvance lock

/-- SLREL (R538); a lock granted as abandoned and never taken goes back as abandoned (R537) (DEDUCED, log 43). -/
def Sys.slrel (x : Ctx) (g : Word) (s : Sys) : Nat × Sys :=
  let lock := fld g 24 35
  if fld g 0 23 != 0 || !s.inWindow x lock then (521, s)
  else if !s.ownLive then (510, s)
  else match s.lockReqs lock with
    | r :: _ =>
      if r.part != requester x then (522, s)
      else match r.st with
        | .held => (0, s.lockDrop lock (.lkrel lock s.alloc.highest))
        | .granted ab _ => (0, s.lockDrop lock (if ab then .lkabn lock r.part else .lkrel lock s.alloc.highest))
        | _ => (522, s)
    | [] => (522, s)

/-- A reset partition gives up one lock: a pending request by LKWD, which stays in the port until it is answered, a held lock by
LKABN, and a lock granted and not taken as R537 returns a grant that no one awaits (R286, R462, R535) (DEDUCED, log 43). -/
def Sys.resetLock (p : Nat) (s : Sys) (lock : Nat) : Sys :=
  let l := s.lockReqs lock
  match l with
  | r :: _ =>
    let s := s.setLockReqs lock (l.filter (fun q => q.part != some p || q = r))
    if r.part != some p then s
    else match r.st with
      | .leaving => s
      | .sent => (s.setLockReqs lock ({ r with st := .leaving } :: (s.lockReqs lock).drop 1)).launch (.lkwd lock (some p))
      | .held => s.lockDrop lock (.lkabn lock (some p))
      | .granted true _ => s.lockDrop lock (.lkabn lock (some p))
      | .granted false sq => s.lockDrop lock (.lkrel lock sq)
      | _ => s.setLockReqs lock ((s.lockReqs lock).drop 1)
  | [] => s

def Sys.resetLocks (p : Nat) (s : Sys) : Sys := (s.port.locks.map (fun x => x.1)).foldl (Sys.resetLock p) s

/-- The commands of the port that name a lock's request. -/
def namesLock (lock : Nat) : BusMsg → Bool
  | .lkwd l _ => l = lock
  | .lkacq l _ => l = lock
  | _ => false

/-- LKWD was accepted: the port goes on to its next request for the lock (R536). -/
def Sys.withdrawn (lock : Nat) (part : Option Nat) (s : Sys) : Sys :=
  match s.lockReqs lock with
  | r :: rs => if r.st = .leaving && r.part = part then (s.setLockReqs lock rs).lockAdvance lock else s
  | [] => s

/-- The return of a grant that no one awaits (R537). -/
def Sys.giveBack (lock sq : Nat) (ab : Bool) (part : Option Nat) (s : Sys) : Sys :=
  s.launch (if ab then .lkabn lock part else .lkrel lock sq)

/-- A GRANT for this module: the floor, then the requester's event; or the return of one that crossed an LKWD, which is then not
launched any more, before the port's next request (R536, R537, R271). -/
def Sys.granted (lock : Nat) (sq : Nat) (ab : Bool) (s : Sys) : Sys :=
  let s := s.raiseFloor sq
  match s.lockReqs lock with
  | r :: rs =>
    match r.st with
    | .sent =>
      if s.port.out.any (namesLock lock) then s.giveBack lock sq ab r.part
      else (s.setLockReqs lock ({ r with st := .granted ab sq } :: rs)).eventTo r.task.2 .scb
    | .leaving =>
      let s : Sys := { s with port := { s.port with out := s.port.out.filter (fun m => m != .lkwd lock r.part) } }
      ((s.setLockReqs lock rs).giveBack lock sq ab r.part).lockAdvance lock
    | _ => s
  | [] => s.giveBack lock sq ab none

/-- The module's slot is no longer live (R542): leases, locks and what the port has still to ask the master are lost. -/
def Sys.loseShelf (s : Sys) : Sys :=
  { s with alloc := { s.alloc with leases := [], asking := false },
           port := { s.port with locks := [], out := s.port.out.filter (fun m => match m with
             | .notice k _ => k != 3
             | _ => false) } }

/-- The port launches JOIN for a module that is out (R542) (DESIGN CHOICE, log 62). -/
def Sys.rejoin (s : Sys) : Sys :=
  let s : Sys := { s with port := { s.port with joining := true } }
  if s.port.out.contains .join then s else s.launch .join

/-- The module receives STALE, or 511 (R542, R563) (DEDUCED, log 65). -/
def Sys.actStale (s : Sys) : Sys :=
  if !s.joined || !s.ownLive then s
  else
    let n := s.img.mySlot.val
    let s := s.loseShelf
    Sys.rejoin { s with port := { s.port with role := if s.port.role = 1 then 2 else s.port.role, slots := tset s.port.slots n { s.epSlot n with live := false } } }

end Sys2Proof.Machine
end

