-- ==== Sys2Proof/Machine/Life.lean ====
section
/-! DEFINITION. The lifecycle of a partition (14 R458-R468): START, HOLD, RESUME, RESET, stack loss; and the MSI-X vectors
of the PF and the VFs. -/

namespace Sys2Proof.Machine

/-- A change of TS_PSTAT.STATE (R458), which the PF's vector 2 signals. -/
def Sys.setState (p st : Nat) (s : Sys) : Sys :=
  if (s.part p).st = st then s else (s.setPart p { s.part p with st := st }).msix 0 2

/-- TS_PSTAT.LAST of a valid entry. -/
def Sys.setLast (p status : Nat) (s : Sys) : Sys :=
  if (s.part p).st = 0 then s else s.setPart p { s.part p with last := status }

/-- The running tasks of a partition: cluster, index and core. -/
def Sys.runningOf (s : Sys) (p : Nat) : List (Nat × Nat × Nat) :=
  (List.range 96).filterMap (fun k => match s.runTask k with
    | some i =>
      let t := s.task (clusterOf k) i
      if !t.noPart && t.part = p then some (clusterOf k, i, k) else none
    | none => none)

def Sys.ringsZero (p : Nat) (s : Sys) : Sys :=
  let e := s.part p
  ((s.ringZero e.pcr.2).ringZero e.ntr.2).ringZero e.dcr.2

/-! ## START (R460) -/

/-- The context of a partition's initial task; the Custody registers are those of every creation (R368)
(DESIGN CHOICE, log 50). -/
def Sys.initCtx (s : Sys) (p c i : Nat) (id : Word) : Ctx :=
  let e := s.part p
  let x : Ctx :=
    { pc := e.word 36, status := mkw 36 [(1, 1), (9, 1)], sspO := e.word 37, xbaseO := e.word 38 &&& ~~~1, taskid := id,
      partid := partIdOf false p, wo := { exts := tblOf [e.dword 32, e.dword 34] }, wc := { exts := tblOf (s.template c) },
      sspC := s.taskStack c i }
  x.wrG 5 (BitVec.ofNat 36 p)

/-- The lowest cluster of the affinity set. -/
def Part.firstCluster (e : Part) : Nat := (firstBelow 12 (fun c => e.aff c)).getD 0

/-- DESIGN CHOICE, log 50. -/
def Sys.start (p : Nat) (s : Sys) : Nat × Sys :=
  let c := (s.part p).firstCluster
  match s.freeIndex c with
  | none => (613, s)
  | some i =>
    let s := s.ringsZero p
    let gen := s.nextGen c i
    let id := taskId c i gen
    let t : Task := { state := 1, part := p, gen := gen, init := some (s.initCtx p c i id) }
    let s := s.setState p 2
    let s := s.setPart p { s.part p with init := some (c, id) }
    let s := (s.setTask c i t).becomeReady c i
    (601, s.noticeFree p 2 601)

/-! ## HOLD and RESUME (R461) -/

/-- Asks the cores that run the partition's tasks to leave them at the next point of R334; one that is SPILLING goes on to the end
of its spill. Tasks on their way to a core go back to the head of their queues (R461). -/
def Sys.askLeave (p : Nat) (s : Sys) : Sys :=
  let s := (s.runningOf p).foldl (fun (s : Sys) x =>
    if (s.task x.1 x.2.1).state = 2 then
      s.modCore x.2.2 (fun co => { co with switchTo := if co.switchTo.isNone then some none else co.switchTo })
    else s) s
  (List.range 96).foldl (fun (s : Sys) k => s.unplace (clusterOf k) k) s

def Sys.resume (p : Nat) (s : Sys) : Sys :=
  (List.range 12).foldl (fun (s : Sys) c => s.pump c) (s.setState p 2)

/-! ## RESET (R462) -/

/-- The tasks of a partition in a cluster. -/
def Sys.tasksOf (s : Sys) (p c : Nat) : List Nat :=
  ((s.campion c).tasks.filter (fun t => t.2.state != 0 && !t.2.noPart && t.2.part = p)).map (fun t => t.1)

def Sys.hasTasks (s : Sys) (p : Nat) : Bool := (List.range 12).any (fun c => !(s.tasksOf p c).isEmpty)

/-- Step 2: every task is cancelled in the state that it is in (R381). -/
def Sys.cancelTasks (p : Nat) (s : Sys) : Sys :=
  (List.range 12).foldl (fun (s : Sys) c => (s.tasksOf p c).foldl (fun (s : Sys) i => s.cancelTask c i) s) s

/-- Events that raced step 2 are dropped and counted; how many did, no command says: a free number in each cluster that holds a
task of the partition (R380, R464) (DESIGN CHOICE, log 25). -/
def Sys.racedEvents (p : Nat) (s : Sys) : Sys :=
  (List.range 12).foldl (fun (s : Sys) c =>
    if (s.tasksOf p c).isEmpty then s
    else
      let f := s.fresh 18
      f.2.modCamp c (fun cp => { cp with rcDrop := sat 262143 (cp.rcDrop + f.1.toNat) })) s

/-- The partition's DMA channels. -/
def Sys.disableChannels (p : Nat) (s : Sys) : Sys :=
  (s.img.owners.filter (fun o => o.2 = p)).foldl (fun (s : Sys) o => s.dmaDisable (o.1 / 64) (o.1 % 64)) s

/-- A completion entry of 16 octets (R516). -/
def cqEntry (cid sqhd status : Nat) (phase : Bool) (len : Nat) : List Octet :=
  let le (n v : Nat) : List Octet := (List.range n).map (fun i => BitVec.ofNat 8 (v / 256 ^ i))
  le 2 cid ++ le 2 sqhd ++ le 2 (status % 1024 + (if phase then 32768 else 0)) ++ le 2 0 ++ le 4 len ++ le 4 0

def Sys.qp (s : Sys) (v q : Nat) : Qp := tget {} (s.vf v).qps q
def Sys.setQp (v q : Nat) (x : Qp) (s : Sys) : Sys := s.setVf v { s.vf v with qps := tset (s.vf v).qps q x }
def Qp.size (x : Qp) : Nat := hfld x.qcfg.toNat 12 0
def Qp.vec (x : Qp) : Nat := hfld x.qcfg.toNat 30 28

/-- Writes a completion entry and moves the tail on. -/
def Sys.cqPut (v q cid status len : Nat) (s : Sys) : Sys :=
  let x := s.qp v q
  let n := if x.size = 0 then 1 else x.size
  let s := s.hputs (x.cqbase.toNat * 4096 + 16 * x.cqtl) (cqEntry cid x.sqhd status x.phase len)
  let t := (x.cqtl + 1) % n
  s.setQp v q { x with cqtl := t, phase := if t = 0 then !x.phase else x.phase }

/-- Disables a queue pair; what it had fetched is forgotten. -/
def Qp.disabled (x : Qp) : Qp :=
  { x with st := 0, code := 0, subs := [], coal := false, qcfg := BitVec.ofNat 36 (x.qcfg.toNat % 0x800000000) }

/-- A partition reset's completions with 115, and the end of the VF's pairs and features (R514, R520) (DEDUCED, log 101). -/
def Sys.vfReset (v : Nat) (answer : Bool) (s : Sys) : Sys :=
  let s := (s.vf v).qps.foldl (fun (s : Sys) x =>
    let s := if answer then (s.qp v x.1).subs.foldl (fun (s : Sys) u => s.cqPut v x.1 u.cid 115 0) s else s
    s.setQp v x.1 (s.qp v x.1).disabled) s
  s.setVf v { s.vf v with set := 0, fcomm := false }

/-- Takes the partition side of a VF's pairs away. -/
def Sys.sidesOff (v : Nat) (s : Sys) : Sys :=
  s.setVf v { s.vf v with qps := (s.vf v).qps.map (fun x => (x.1, { x.2 with side := none })) }

/-- Stores of a partition leave a core's queue; what an IVSYNC waits for falls with them (R412). -/
def Core.dropStores (p : Nat) (c : Core) : Core :=
  { c with sq := c.sq.filter (fun e => e.part != some p), ivSt := ((c.sq.take c.ivSt).filter (fun e => e.part != some p)).length }

/-- Steps 3 to 6 and OFF. Stores that the partition's tasks had retired and not committed are gone (R463)
(DESIGN CHOICE, log 25). -/
def Sys.resetRest (p : Nat) (s : Sys) : Sys :=
  let s := s.disableChannels p
  let s := (s.resetPostings p).balance.resetLocks p
  let s := if s.joined then s.launch (.notice 0 (BitVec.ofNat 36 p)) else s
  let s := (List.range 96).foldl (fun (s : Sys) k => (s.applyInv k (.part p)).modCore k (Core.dropStores p)) s
  let s := s.ringsZero p
  let s := s.setPart p { s.part p with held := [] }
  let s := ((s.vfReset p true).sidesOff p).setState p 1
  (List.range 12).foldl (fun (s : Sys) c => s.pump c) s

/-- A range includes a stripe of stack `m`. -/
def rangeOn (w : Word) (m : Nat) : Bool :=
  kbit w 0 && (List.range (min (fld w 23 35) 7 + 1)).any (fun k => (fld w 10 22 + k * 2 ^ fld w 1 2) % 8 = m)

def Part.onStack (e : Part) (m : Nat) : Bool := e.ranges.any (fun w => rangeOn w m)

/-- A partition with memory on lost stack `m` is LOST, and told where its ring survives (R468). -/
def Sys.lostOn (p m : Nat) (s : Sys) : Sys :=
  let s := s.setState p 5
  let s := s.setPart p { s.part p with last := 620, lostm := (s.part p).lostm ||| BitVec.ofNat 8 (2 ^ m) }
  if (s.mc (stackOf (s.part p).ntr.2)).fail then s else s.notice p 3 620 0 (BitVec.ofNat 36 m)

/-- What follows the end of a reset (R462, R464, R573). -/
def Sys.resetThen (p : Nat) (s : Sys) : ResetThen → Sys
  | .report => if s.pf.busy then { s with pf := { s.pf with run := some 603 } } else s
  | .loss m => s.lostOn p m
  | .failover => s.noticeFree p 5 530

/-- Partitions that are the active side of a pair. -/
def Sys.actives (s : Sys) : List Nat := (s.img.pairs.filter (fun x => !x.standby)).map (fun x => x.part)

/-- A module that was out and whose paired active partitions have all been reset takes a lease (R542, R573). -/
def Sys.rejoined (s : Sys) : Sys :=
  if s.joined && s.port.joining && s.ownLive && s.actives.all (fun p => (s.part p).st != 4) then
    (({ s with port := { s.port with joining := false } } : Sys)).askLease
  else s

/-- A reset goes on once the last task of the partition has ended; one that was created meanwhile is cancelled too (R462)
(DESIGN CHOICE, log 25). -/
def Sys.resetGoes (p : Nat) (s : Sys) : Sys :=
  if (s.part p).st != 4 then s
  else
    let s := s.cancelTasks p
    if s.hasTasks p then s
    else
      let l := (s.part p).after
      let s := s.resetRest p
      let s := s.setPart p { s.part p with after := [], last := 603 }
      (l.foldl (Sys.resetThen p) s).rejoined

/-- Begins a reset, or joins the one in progress; `t` follows its end. Step 1 is RESETTING itself, in which the submission queues
are not fetched. -/
def Sys.reset (p : Nat) (t : List ResetThen) (s : Sys) : Sys :=
  let then' (s : Sys) : Sys := s.setPart p { s.part p with after := (s.part p).after ++ t }
  if (s.part p).st = 4 then then' s
  else ((then' (s.setState p 4)).racedEvents p).resetGoes p

/-! ## Requests (R458, R459) -/

inductive Verb where
  | start | hold | resume | reset
  deriving DecidableEq, Repr

/-- Judges a request: its status, or none while a HOLD or a RESET waits for tasks. `pf` says who asked (DESIGN CHOICE, log 25). -/
def Sys.lifeAct (v : Verb) (p : Nat) (pf : Bool) (s : Sys) : Option Nat × Sys :=
  let st := (s.part p).st
  if st = 0 then (some 610, s)
  else if st = 5 then (some 620, s)
  else match v with
    | .start => if st = 1 then (some (s.start p).1, (s.start p).2) else (some 611, s)
    | .hold =>
      if st = 3 then (some 602, s)
      else if st = 2 then
        let s := (s.setState p 3).askLeave p
        if (s.runningOf p).isEmpty then (some 602, s)
        else (none, s.setPart p { s.part p with holding := some (pf || (s.part p).holding = some true) })
      else (some 611, s)
    | .resume => if st = 3 then (some 604, s.resume p) else (some 611, s)
    | .reset =>
      if st = 1 then (some 603, s.setVf p { s.vf p with set := 0, fcomm := false })
      else
        let s := s.reset p (if pf then [.report] else [])
        (if (s.part p).st = 4 then none else some (s.part p).last, s)

/-- A request with TS_PSTAT.LAST (DESIGN CHOICE, log 25). -/
def Sys.lifecycle (v : Verb) (p : Nat) (pf : Bool) (s : Sys) : Option Nat × Sys :=
  match s.lifeAct v p pf with
  | (some c, s) => (some c, s.setLast p c)
  | (none, s) => (none, s)

/-- HOLD_COMPLETE: no task of the partition runs any more, so that a HOLD reports (R461), or a reset goes on (R462). -/
def Sys.holdComplete (p : Nat) (s : Sys) : Sys :=
  let s := s.resetGoes p
  match (s.part p).holding with
  | none => s
  | some pf =>
    if !(s.runningOf p).isEmpty then s
    else
      let s := s.setPart p { s.part p with holding := none, last := if (s.part p).st = 3 then 602 else (s.part p).last }
      if pf && s.pf.busy then { s with pf := { s.pf with run := some 602 } } else s

/-! ## Stack loss (R449, R468) -/

/-- A partition with memory on lost stack `m` is reset and then LOST; one that is LOST already is not reset again (R468). -/
def Sys.loseStackOf (m p : Nat) (s : Sys) : Sys :=
  if (s.part p).st = 0 || !(s.part p).onStack m then s
  else if (s.part p).st = 5 then s.lostOn p m
  else s.reset p [.loss m]

/-- A stack is lost (DESIGN CHOICE, log 25). -/
def Sys.stackLoss (m : Nat) (s : Sys) : Sys :=
  if (s.mc m).fail then s
  else
    let s := s.setMc m { s.mc m with fail := true, up := false, inLap := false }
    (s.parts.map (fun p => p.1)).foldl (fun (s : Sys) p => s.loseStackOf m p) s

end Sys2Proof.Machine
end

