-- ==== Sys2Proof/Machine/HostPort.lean ====
section
/-! DEFINITION. The host port (16): access errors, the commands of the PF and the VFs, feature negotiation, queue pairs,
the recovery window, and the resets of the port. -/

namespace Sys2Proof.Machine

/-! ## Access errors (HI_ERRLOG, HI_ERRCNT) -/

/-- Logs an access error: captured when V is 0, counted in every case, and vector 3 for a capture (DESIGN CHOICE, log 70). -/
def Sys.hostErr (kind fn off : Nat) (s : Sys) : Sys :=
  let pf := s.pf
  let n := sat (w36 - 1) (pf.cnt + 1)
  if pf.logV then { s with pf := { pf with cnt := n } }
  else Sys.msix 0 3 { s with pf := { pf with cnt := n, logV := true, logK := kind, logF := fn, logO := off } }

/-! ## Features (R510-R515) -/

/-- The bits that stepping B1 offers, and those of the VF level together with F0. -/
def offered : Nat := 0x7F0F
def vfLevel : Nat := 0x7F01

/-- The requirement of feature `k` holds in the set `f` (R510). -/
def featNeeds (f k : Nat) : Bool :=
  let has (i : Nat) : Bool := f.testBit i
  if k = 0 then true
  else if k = 1 || k = 2 || k = 3 || k = 8 || k = 9 then has 0
  else if k = 11 then has 10
  else has 8 || has 9

/-- The first failure of R513: reason and lowest bit. -/
def featCheck (f allowed : Nat) : Option (Nat × Nat) :=
  match firstBelow 128 (fun k => f.testBit k && !allowed.testBit k) with
  | some k => some (1, k)
  | none =>
    if !f.testBit 0 then some (2, 0)
    else (firstBelow 128 (fun k => f.testBit k && !featNeeds f k)).map (fun k => (3, k))

def Qp.en (x : Qp) : Bool := x.qcfg.getLsbD 35
def Vf.anyOn (v : Vf) : Bool := v.qps.any (fun x => x.2.en)

/-- The bits that a VF may commit (R515). -/
def Sys.vfAvail (s : Sys) : Nat := if s.pf.fcomm then s.pf.set &&& vfLevel else 0

/-- The PF's commit: its status (DEDUCED, log 54). -/
def Sys.pfCommit (s : Sys) : Nat × Sys :=
  if s.vfs.any (fun v => v.2.anyOn) then (104, s)
  else match featCheck s.pf.acc offered with
    | some (r, b) => (103, { s with pf := { s.pf with acc := s.pf.set, errV := true, errR := r, errB := b } })
    | none =>
      (0, { s with pf := { s.pf with set := s.pf.acc, fcomm := true, errV := false, errR := 0, errB := 0 } })

/-- A VF's commit (DEDUCED, log 54). -/
def Sys.vfCommit (v : Nat) (s : Sys) : Nat × Sys :=
  let x := s.vf v
  if x.anyOn then (104, s)
  else match featCheck x.acc s.vfAvail with
    | some (r, b) => (103, s.setVf v { x with acc := x.set, errV := true, errR := r, errB := b })
    | none => (0, s.setVf v { x with set := x.acc, fcomm := true, errV := false, errR := 0, errB := 0 })

/-! ## Commands (R506-R509, R512) -/

def opLifecycle (op : Nat) : Bool := 2 ≤ op && op ≤ 5

/-- The status with which a PF command ends before its own checks, or none (DEDUCED, log 53). -/
def Sys.pfGate (s : Sys) (op : Nat) (rsv : Bool) (arg : Nat) : Option Nat :=
  let pf := s.pf
  let open67 := op = 6 || op = 7
  if 7 < op || rsv || 1023 < arg then some 101
  else if !pf.ready && !open67 then some 102
  else if !pf.fcomm && !(op = 0 || op = 1 || open67) then some 102
  else if opLifecycle op && !pf.set.testBit 3 then some 101
  else none

/-- DEDUCED, log 53. -/
def verbOf (op : Nat) : Verb := if op = 2 then .start else if op = 3 then .hold else if op = 4 then .resume else .reset

/-- The effect of an accepted PF command; a status of none comes later. `recov` says that recovery mode holds. -/
def Sys.pfEffect (op arg : Nat) (recov : Bool) (s : Sys) : Option Nat × Sys :=
  if op = 0 then (some 0, s)
  else if op = 1 then (some s.pfCommit.1, s.pfCommit.2)
  else if opLifecycle op then s.lifecycle (verbOf op) arg true
  else if op = 6 then
    if s.pf.set.testBit 2 || recov then (some 0, { s with pf := { s.pf with rwopen := true } }) else (some 101, s)
  else if s.pf.rwbusy then (none, s)
  else (some 0, { s with pf := { s.pf with rwopen := false } })

/-- A write of HI_CMD (R507). CODE is not stated while BUSY is 1. -/
def Sys.pfCommand (op : Nat) (rsv : Bool) (arg : Nat) (recov : Bool) (s : Sys) : Sys :=
  if s.pf.busy then s.hostErr 3 0 0x80
  else
    let f := s.fresh 10
    let s : Sys := { f.2 with pf := { f.2.pf with busy := true, op := op, code := f.1.toNat, run := none } }
    match s.pfGate op rsv arg with
    | some c => { s with pf := { s.pf with run := some c } }
    | none =>
      let r := s.pfEffect op arg recov
      { r.2 with pf := { r.2.pf with run := r.1 } }

/-- A write of HI_VCMD. -/
def Sys.vfCommand (v op : Nat) (rsv : Bool) (arg : Nat) (s : Sys) : Sys :=
  if (s.vf v).busy then s.hostErr 3 (v + 1) 0x80
  else
    let f := s.fresh 10
    let s := f.2.setVf v { f.2.vf v with busy := true, op := op, code := f.1.toNat }
    let r : Nat × Sys :=
      if op != 1 || rsv || 1023 < arg then (101, s)
      else if !s.pf.ready || !s.pf.fcomm then (102, s)
      else s.vfCommit v
    r.2.setVf v { r.2.vf v with run := some r.1 }

/-- The running command of a function ends (0: the PF, n + 1: the VF of Pn) (DESIGN CHOICE, log 25). -/
def Sys.commandDone (fn : Nat) (s : Sys) : Sys :=
  if fn = 0 then
    match s.pf.run with
    | some c => if s.pf.busy then Sys.msix 0 0 { s with pf := { s.pf with busy := false, code := c, run := none } } else s
    | none => s
  else
    let x := s.vf (fn - 1)
    match x.run with
    | some c => if x.busy then (s.setVf (fn - 1) { x with busy := false, code := c, run := none }).msix fn 0 else s
    | none => s

def onPf (op : Nat) (rsv : Bool) (arg : Nat) (s : State) : Out := onSys (fun x => x.pfCommand op rsv arg s.boot.halted) s

def execNop (rsv : Bool) (arg : Nat) (s : State) : Out := onPf 0 rsv arg s
def execFeatCommit (rsv : Bool) (arg : Nat) (s : State) : Out := onPf 1 rsv arg s
def execVfFeatCommit (v : PartId) (rsv : Bool) (arg : Nat) (s : State) : Out := onSys (fun s => s.vfCommand v 1 rsv arg) s

/-- A lifecycle request of the PF or of Custody firmware (R458, R459); Custody's names a partition below 1,024. -/
def lifeRequest (op : Nat) (o : Origin) (arg : Nat) (s : State) : Out :=
  match o with
  | .pf rsv => onPf op rsv arg s
  | .custody => onSys (fun s => if arg < 1024 then (s.lifecycle (verbOf op) arg false).2 else s) s

def execPartStart (o : Origin) (arg : Nat) (s : State) : Out := lifeRequest 2 o arg s
def execPartHold (o : Origin) (arg : Nat) (s : State) : Out := lifeRequest 3 o arg s
def execPartResume (o : Origin) (arg : Nat) (s : State) : Out := lifeRequest 4 o arg s
def execPartReset (o : Origin) (arg : Nat) (s : State) : Out := lifeRequest 5 o arg s
def execHoldComplete (p : PartId) (s : State) : Out := onSys (fun s => s.holdComplete p) s
def execRecoveryOpen (rsv : Bool) (arg : Nat) (s : State) : Out := onPf 6 rsv arg s
def execRecoveryClose (rsv : Bool) (arg : Nat) (s : State) : Out := onPf 7 rsv arg s
def execCommandComplete (fn : Nat) (s : State) : Out := onSys (fun s => s.commandDone fn) s

/-! ## The recovery window (R521, R603) -/

def copySize : Nat := 0x4000000
/-- DESIGN CHOICE, log 59. -/
def flashSize : Nat := 0x8000000

/-- An octet of the flash; an unlisted one is erased (DESIGN CHOICE, log 5). -/
def State.flashGet (s : State) (a : Nat) : Octet := tget 0xFF s.flash a
def flashSet (t : Tbl Octet) (a : Nat) (o : Octet) : Tbl Octet := if o = 0xFF then terase t a else tset t a o
def flashPuts (t : Tbl Octet) : Nat → List Octet → Tbl Octet
  | _, [] => t
  | a, o :: l => flashPuts (flashSet t a o) (a + 1) l
def flashGets (t : Tbl Octet) (a : Nat) : Nat → List Octet
  | 0 => []
  | n + 1 => tget 0xFF t a :: flashGets t (a + 1) n

/-- `n` free octets. -/
def freeOcts : Nat → Nat → List Octet
  | 0, _ => []
  | n + 1, k => Config.free 8 k :: freeOcts n (k + 1)

/-- The first octets of the staging buffer (DEDUCED, log 58). -/
def Pf.staged (p : Pf) (n : Nat) : List Octet := (List.range n).map (fun i => tget 0 p.buf i)

inductive RwOp where
  | read | erase (fails : Bool) | program (fails : Bool) | verify
  deriving DecidableEq, Repr

def RwOp.isErase : RwOp → Bool
  | .erase _ => true
  | _ => false

/-- The status that the checks of R521 give an operation at offset `a`, or 0 (DESIGN CHOICE, log 59). -/
def State.rwCheck (s : State) (op : RwOp) (a len : Nat) : Nat :=
  let er := op.isErase
  let n := if er then 0x10000 else len
  if !s.sys.pf.rwopen then 123
  else if flashSize < a + n || (er && a % 0x10000 != 0) || (!er && (len = 0 || 4096 < len)) then 120
  else
    let lo := if s.boot.chosen then copySize else 0
    if s.sys.pf.ready && a < lo + copySize && lo < a + n then 121 else 0

/-- An operation of the recovery window (HI_RWOP, or I3C) (DESIGN CHOICE, log 59). -/
def State.rwOp (op : RwOp) (len : Nat) (s : State) : State :=
  let pf := s.sys.pf
  if pf.rwbusy then { s with sys := s.sys.hostErr 3 0 0x10000 }
  else
    let a := pf.rwaddr
    let start (s : State) (c : Nat) (r : Option (Nat × Nat)) : State :=
      { s with sys := { s.sys with pf := { s.sys.pf with rwbusy := true, rwrun := c, rwrange := r } } }
    let c := s.rwCheck op a len
    if c != 0 then start s c none
    else match op with
      | .read =>
        let l := flashGets s.flash a len
        let b := (List.range len).foldl (fun (t : Tbl Octet) i => tset t i ((l[i]?).getD 0)) pf.buf
        start { s with sys := { s.sys with pf := { pf with buf := b } } } 0 none
      | .erase fails =>
        if fails then
          start { s with flash := flashPuts s.flash a (freeOcts 0x10000 s.sys.free),
                         sys := { s.sys with free := s.sys.free + 0x10000 } } 122 none
        else start { s with flash := s.flash.filter (fun x => x.1 < a || a + 0x10000 ≤ x.1) } 0 (some (a, 0x10000))
      | .program fails =>
        if fails then
          start { s with flash := flashPuts s.flash a (freeOcts len s.sys.free),
                         sys := { s.sys with free := s.sys.free + len } } 122 none
        else start { s with flash := flashPuts s.flash a (pf.staged len) } 0 (some (a, len))
      | .verify => start s (if flashGets s.flash a len = pf.staged len then 0 else 122) none

/-- The operation ends: its status, vector 4, and a RECOVERY_CLOSE that waited for it (DESIGN CHOICE, log 59). -/
def Sys.rwDone (s : Sys) : Sys :=
  let pf := s.pf
  if !pf.rwbusy then s
  else
    let closing := pf.busy && pf.op = 7 && pf.run.isNone
    Sys.msix 0 4 { s with pf := { pf with rwbusy := false, rwcode := pf.rwrun, rwrange := none,
                                          rwopen := pf.rwopen && !closing,
                                          run := if closing then some 0 else pf.run } }

/-- The range of an operation that a reset stops is indeterminate (R603) (DESIGN CHOICE, log 59). -/
def State.rwStopped (s : State) : State :=
  match s.sys.pf.rwrange with
  | some (a, n) =>
    { s with flash := flashPuts s.flash a (freeOcts n s.sys.free), sys := { s.sys with free := s.sys.free + n } }
  | none => s

def execFlashRead (_i3c : Bool) (len : Nat) (s : State) : Out := .next (s.rwOp .read len)
/-- Whether the flash reports a failure, where the command does not say: a free value (DESIGN CHOICE, log 59). -/
def State.flashFails (s : State) : Bool × State :=
  let f := s.sys.fresh 1
  (f.1 = 1, { s with sys := f.2 })

def execFlashErase (_i3c : Bool) (s : State) : Out := .next (s.flashFails.2.rwOp (.erase s.flashFails.1) 0)
def execFlashProgram (_i3c : Bool) (len : Nat) (fails : Bool) (s : State) : Out := .next (s.rwOp (.program fails) len)
def execFlashVerify (_i3c : Bool) (len : Nat) (s : State) : Out := .next (s.rwOp .verify len)
def execRecoveryOpComplete (s : State) : Out := onSys Sys.rwDone s

/-! ## Queue pairs (R516-R519) -/

/-- The VF offers the queue pair (R453). -/
def Sys.qpOffered (s : Sys) (v q : Nat) : Bool := q < (s.part v).nq && (s.part v).st != 0

/-- A write of a register of a queue pair: before READY it is ignored, and where the pair is not offered the slot is
reserved (R504, R506) (DEDUCED, log 55). -/
def Sys.qpWrite (v q off : Nat) (f : Sys → Sys) (s : Sys) : Sys :=
  if !s.pf.ready then s
  else if !s.qpOffered v q then s.hostErr 2 (v + 1) (0x1000 * (q + 1) + off)
  else f s

/-- A doorbell: INDEX of HI_SQTAIL or HI_CQHEAD; its reserved bits are dropped (R13) (DEDUCED, logs 55 and 71). -/
def Sys.doorbell (v q : Nat) (cq : Bool) (value : Nat) (s : Sys) : Sys :=
  s.qpWrite v q (if cq then 0x20 else 0x18) (fun s =>
    let x := s.qp v q
    if !x.en then s
    else
      let w := BitVec.ofNat 36 (value % 4096)
      let x := if cq then { x with cqhead := w } else { x with sqtail := w }
      if x.size ≤ w.toNat then s.setQp v q { x with st := 3, code := 114 } else s.setQp v q x)

def slotSize (sz : Nat) : Nat := 1024 * 4 ^ sz
def Qp.slotsz (x : Qp) : Nat := hfld x.qcfg.toNat 14 13
def Qp.swap (x : Qp) : Nat := hfld x.qcfg.toNat 33 31
def Qp.markmap (x : Qp) : Bool := x.qcfg.getLsbD 34

/-- HI_QCFG names nothing but what is committed (R519, 110) (DEDUCED, log 54). -/
def qcfgOk (f q v : Nat) : Bool :=
  let has (k : Nat) : Bool := f.testBit k
  let sw := hfld v 33 31
  let n := hfld v 12 0
  (if v.testBit 34 then has 9 else has 8) && (sw = 0 || (sw ≤ 3 && has 10) || (sw = 4 && has 11)) &&
  (hfld v 27 20 = 0 || has 13) && (hfld v 14 13 = 0 || has 12) && 2 ≤ n && n ≤ 4096 &&
  (q = 0 || has 14)

/-- STATE of an enabled pair: 2 when the partition side uses the same slot, else 1 (DEDUCED, log 55). -/
def Qp.started (x : Qp) : Qp :=
  { x with st := match x.side with
             | some (z, _, _, _) => if z = x.slotsz then 2 else 1
             | none => 1 }

/-- A value of HI_QCFG without its reserved bits (R13). -/
def qcfgBits (value : Nat) : Nat := value - (hfld value 19 15 <<< 15)

/-- A write of HI_QCFG (DEDUCED, logs 54 and 71). -/
def Sys.qcfgWrite (v q value : Nat) (s : Sys) : Sys :=
  s.qpWrite v q 0x10 (fun s =>
    let x := s.qp v q
    let w := BitVec.ofNat 36 (qcfgBits value)
    if w.getLsbD 35 then
      if x.en then s
      else if qcfgOk (s.vf v).set q w.toNat then
        s.setQp v q (Qp.started { x with qcfg := w, code := 0, sqtail := 0, cqhead := 0, sqhd := 0, cqtl := 0,
                                         phase := true, subs := [], coal := false })
      else s.setQp v q { x with qcfg := setBit w 0 false, st := 0, code := 110 }
    else if x.en then s.setQp v q x.disabled
    else s.setQp v q { x with qcfg := w })

/-- A completion entry and, unless coalescing defers it, the queue's vector. -/
def Sys.complete (v q cid status len : Nat) (s : Sys) : Sys :=
  let s := s.cqPut v q cid status len
  let x := s.qp v q
  if hfld x.qcfg.toNat 27 20 != 0 then s.setQp v q { x with coal := true } else s.msix (v + 1) x.vec

/-- The completion queue has no free entry (DEDUCED, log 57). -/
def Qp.cqFull (x : Qp) : Bool := (x.cqtl + 1) % (if x.size = 0 then 1 else x.size) = x.cqhead.toNat

/-- Octets to a little-endian number. -/
def leNat : List Octet → Nat
  | [] => 0
  | o :: l => o.toNat + 256 * leNat l

def up8 (n : Nat) : Nat := (n + 7) / 8 * 8

/-- Request data as syllables (R75-R78). -/
def Sys.hostSyls (s : Sys) (x : Qp) (a n : Nat) : List Syl :=
  (List.range n).map (fun i =>
    mkSyl (x.markmap && markBit (s.hget (a + up8 n + i / 8)) (i % 8)) (s.hget (a + swapPos x.swap i)))

/-- Response data to host memory; the bitmap follows in MARKMAP. -/
def Sys.hostPutSyls (x : Qp) (a : Nat) (l : List Syl) (s : Sys) : Sys :=
  let n := l.length
  let s := (List.range n).foldl (fun (s : Sys) i => s.hput (a + swapPos x.swap i) (octet ((l[i]?).getD 0))) s
  if x.markmap then
    s.hputs (a + up8 n) ((List.range ((n + 7) / 8)).map (fun j => markOctet ((l.drop (8 * j)).take 8 |>.map mark)))
  else s

/-- The status of R519 with which the entry ends instead of reaching the partition, or 0 (DEDUCED, log 56). -/
def subStatus (x : Qp) (e : List Octet) (len : Nat) (err : Bool) : Nat :=
  if (e[3]?).getD 0 != 0 || leNat ((e.drop 20).take 4) != 0 then 117
  else if len = 0 || slotSize x.slotsz - 16 < len then 111
  else if len % swapGroup x.swap != 0 then 116
  else if err then 113 else 0

/-- `n` free syllables. -/
def freeSyls : Nat → Nat → List Syl
  | 0, _ => []
  | n + 1, k => Config.free 9 k :: freeSyls n (k + 1)

/-- The VF queues of a partition run while it is RUNNING or HELD (R458, R460, R519) (DEDUCED, log 55). -/
def Sys.queuesOn (s : Sys) (v : Nat) : Bool := (s.part v).st = 2 || (s.part v).st = 3

/-- A host access of a pair fails: ERROR with 113 (R519). -/
def Sys.qpError (v q : Nat) (s : Sys) : Sys := s.setQp v q { s.qp v q with st := 3, code := 113 }

/-- The slot header of a receive slot: OPC unchanged, the rest as the firmware interface has it, which is free (R516, R517). -/
def slotHeader (n : Nat) (opc : Octet) : List Syl := (freeSyls 16 n).set Config.opcAt (mkSyl false opc)

/-- The next submission of a running pair (R518); it waits for the ring, and for a line that a Balance Unit holds (R262).
`err`: a host access fails. Which one is free: the fetch of the entry, after which no CID is known and nothing completes, or the
next access that the entry needs: the read of its request data, or the write of its completion entry (DEDUCED, logs 56 and 57). -/
def Sys.submission (v q : Nat) (err : Bool) (s : Sys) : Sys :=
  let x := s.qp v q
  if x.st != 2 || x.sqhd = x.sqtail.toNat || !s.queuesOn v then s
  else
    let w := if err then s.fresh 1 else (0, s)
    let s := w.2
    if err && w.1 = 0 then s.qpError v q else
    let e := s.hgets (x.sqbase.toNat * 4096 + 32 * x.sqhd) 32
    let cid := leNat (e.take 2)
    let len := leNat ((e.drop 4).take 4)
    let adv : Qp := { x with sqhd := (x.sqhd + 1) % (if x.size = 0 then 1 else x.size) }
    let c := subStatus x e len err
    if c != 0 then
      if x.cqFull then s
      else if c = 113 then ((s.setQp v q adv).complete v q cid c 0).qpError v q
      else if err then (s.setQp v q adv).qpError v q
      else (s.setQp v q adv).complete v q cid c 0
    else match x.side with
      | none => s
      | some (_, task, ring, lg) =>
        if !s.ringFree (lg, ring) 0 || !s.ringOpen (lg, ring) (slotSize x.slotsz) then s
        else
          let d := s.hostSyls x (leNat ((e.drop 8).take 8)) len
          let hd := slotHeader s.free ((e[2]?).getD 0)
          let s : Sys := Sys.ringPut 6 (lg, ring) (slotSize x.slotsz) (hd ++ d) { s with free := s.free + 16 }
          let u : Sub := { cid := cid, addr := leNat ((e.drop 24).take 8), max := leNat ((e.drop 16).take 4) }
          (s.setQp v q { adv with subs := x.subs ++ [u] }).eventTo task .doorbell

/-- Removes the first submission with a CID. -/
def dropSub (cid : Nat) : List Sub → List Sub
  | [] => []
  | u :: l => if u.cid = cid then l else u :: dropSub cid l

/-- A send slot, of which the record that it can hold counts (R517, R518): matched by its CID, or discarded and counted. `err`: a host
write fails. Which one is free where there are two: that of the response or that of the completion entry (DEDUCED, logs 56 and
57). -/
def Sys.responseSend (v q cid : Nat) (rec : List Syl) (err : Bool) (s : Sys) : Sys :=
  let x : Qp := { s.qp v q with sent := ((s.qp v q).sent + 1) % w36 }
  let data := rec.take (slotSize x.slotsz - 16)
  match x.subs.find? (fun u => u.cid = cid) with
  | none => s.setQp v q { x with stray := sat 0xffffff (x.stray + 1) }
  | some u =>
    if x.cqFull then s
    else
      let s := s.setQp v q { x with subs := dropSub cid x.subs }
      let n := data.length
      let c := if u.max < n then 112 else if n % swapGroup x.swap != 0 then 116 else 0
      let w := if err && c = 0 then s.fresh 1 else (0, s)
      if err && c = 0 && w.1 = 0 then ((w.2.hostFree u.addr n).complete v q cid 113 0).qpError v q
      else
        let s := if c = 0 then w.2.hostPutSyls x u.addr data else w.2
        if err then s.qpError v q else s.complete v q cid c (if c = 116 then 0 else n)

/-- The coalescing interval ends. -/
def Sys.coalesceExpiry (v q : Nat) (s : Sys) : Sys :=
  let x := s.qp v q
  if x.coal then (s.setQp v q { x with coal := false }).msix (v + 1) x.vec else s

/-- Custody firmware sets up the partition side of a pair (R517). -/
def Sys.sideSetup (v q slotsz : Nat) (task : Word) (ring log2 : Nat) (s : Sys) : Sys :=
  let x : Qp := { s.qp v q with side := some (slotsz, task, ring, log2) }
  s.setQp v q (if x.st = 1 then x.started else x)

def execSqDoorbell (v : PartId) (qp : Fin 8) (value : Nat) (s : State) : Out := onSys (fun s => s.doorbell v qp false value) s
def execCqDoorbell (v : PartId) (qp : Fin 8) (value : Nat) (s : State) : Out := onSys (fun s => s.doorbell v qp true value) s

/-- `value` with EN as the row gives it. -/
def withEn (en : Bool) (value : Nat) : Nat := value % 0x800000000 + (if en then 0x800000000 else 0)

def execQueueEnable (v : PartId) (qp : Fin 8) (value : Nat) (s : State) : Out :=
  onSys (fun s => s.qcfgWrite v qp (withEn true value)) s
def execQueueDisable (v : PartId) (qp : Fin 8) (value : Nat) (s : State) : Out :=
  onSys (fun s => s.qcfgWrite v qp (withEn false value)) s
def execSubmission (v : PartId) (qp : Fin 8) (err : Bool) (s : State) : Out := onSys (fun s => s.submission v qp err) s
def execResponseSend (v : PartId) (qp : Fin 8) (cid : Nat) (data : List Syl) (err : Bool) (s : State) : Out :=
  onSys (fun s => s.responseSend v qp cid data err) s
def execCoalesceExpiry (v : PartId) (qp : Fin 8) (s : State) : Out := onSys (fun s => s.coalesceExpiry v qp) s
def execPartitionSideSetup (v : PartId) (qp : Fin 8) (slotsz : Fin 4) (task : Word) (ring : Nat) (log2 : Nat) (s : State) : Out :=
  onSys (fun s => s.sideSetup v qp slotsz task ring log2) s

/-! ## Resets of the port (R520, R601, R626) -/

/-- Host port reset: features, queue pairs, recovery window and HI_ registers; a PF HOLD still waiting reports to no
one (DEDUCED, log 58). -/
def Sys.hostReset (recov : Bool) (s : Sys) : Sys :=
  let s := s.vfs.foldl (fun (s : Sys) v =>
    let s := s.vfReset v.1 false
    s.setVf v.1 { msixT := v.2.msixT, qps := (s.vf v.1).qps.map (fun x => (x.1, ({ side := x.2.side } : Qp))) }) s
  let s : Sys := { s with parts := s.parts.map (fun p =>
    (p.1, { p.2 with holding := p.2.holding.map (fun _ => false), after := p.2.after.filter (fun t => t != .report) })) }
  { s with pf := { ready := s.pf.ready, rwopen := recov, linkUp := s.pf.linkUp, recoveries := s.pf.recoveries,
                   msix := s.pf.msix, msixP := s.pf.msixP, msixT := s.pf.msixT } }

def execHostPortReset (why : HpReset) (s : State) : Out :=
  let x := s.sys.hostReset s.boot.halted
  let down : Sys := { x with pf := { x.pf with linkUp := false } }
  match why with
  | .hot => .next { s with sys := x }
  | .flr => .next { s with sys := x }
  | .linkDown => .next { s with sys := down }
  | .perst low =>
    if low then .next { s with sys := down, pwr := { s.pwr with perst := true } }
    else .next { s with pwr := { s.pwr with perst := false } }

def execVfFlr (v : PartId) (s : State) : Out := onSys (fun s => s.vfReset v false) s

/-- A PCIe port recovers its link (R614): the host port, J0 or J1. -/
def execPcieLinkRecovery (port : Fin 3) (s : State) : Out :=
  onSys (fun s => { s with pf := { s.pf with recoveries := tset s.pf.recoveries port (tget 0 s.pf.recoveries port + 1) } }) s

/-! ## Lockup map clears (R353, R509) -/

def execLockupEntryClear (n : Fin 16) (s : State) : Out := onSys (fun s => if s.pf.ready then s.clearLockup n else s) s
def execLkstatOvfClear (s : State) : Out := onSys (fun s => if s.pf.ready then s.clearOvf else s) s

end Sys2Proof.Machine
end

