-- ==== Sys2Proof/Machine/MulDiv.lean ====
section
/-! DEFINITION. Multiply and divide (05 R157-R165), the divider's modes, and MAC2 (05 R176-R179). -/

namespace Sys2Proof.Machine

/-! ## Operands and times -/

/-- The value of a register or a pair, read signed or unsigned. -/
def valOf {n : Nat} (signed : Bool) (v : BitVec n) : Int := if signed then v.toInt else v.toNat

/-- An operand of an IMD form: G[r], or the pair r. -/
def rI (k : Nat) (wide signed : Bool) (r : Reg) : M Int := do
  if wide then
    let v ← rP k r
    pure (valOf signed v)
  else
    let v ← rG k r
    pure (valOf signed v)

def wI (k : Nat) (wide : Bool) (r : Reg) (v : Int) : M Unit :=
  if wide then wP k r (BitVec.ofInt 72 v) else wG k r (BitVec.ofInt 36 v)

/-- Core cycles of a multiply with multiplier `b` (R160) (DEDUCED, log 30). -/
def mulCycles (b : Int) : Nat :=
  let n := bitLen 72 b.natAbs
  2 + ((if n = 0 then 1 else n) + 11) / 12

/-- The table of core `k` waits for a reload, or is good again (R162, R164). -/
def Sys.divBad (k : Nat) (b : Bool) (s : Sys) : Sys :=
  let s := s.modCore k (fun c => { c with divm := b })
  match (s.core k).slot with
  | some n => s.setSlot n { s.slot n with divBad := b }
  | none => s

/-- The divider's table-mode and restoring-mode times (R161, R165): a table parity error discards the estimate, runs
the operation in restoring mode 2 cycles later, and leaves the divider in that mode (R162, R164) (DEDUCED, log 30). -/
def divider (a : Issue) (tbl rst : Nat) : M Unit := do
  let c := (← get).core a.core
  if c.divm then tick a.core rst
  else if a.hw = .dividerParity then
    upd (fun s => s.divBad a.core true)
    tick a.core (rst + 2)
  else tick a.core tbl

/-! ## Multiply -/

/-- A product of two operands of one width; `out` writes it. -/
def mulBody (k : Nat) (wide signed : Bool) (ra rb : Reg) (out : Int → M Unit) : M Unit := do
  let x ← rI k wide signed ra
  let y ← rI k wide signed rb
  out (x * y)
  tick k (mulCycles y)

def execMul (a : Issue) (rd ra rb : Reg) (s : State) : Out :=
  instr a (.mul a rd ra rb) 4 (seq (mulBody a.core false false ra rb (wI a.core false rd))) s
def execMulh (a : Issue) (rd ra rb : Reg) (s : State) : Out :=
  instr a (.mulh a rd ra rb) 4 (seq (mulBody a.core false true ra rb (fun p => wG a.core rd (dw0 (BitVec.ofInt 72 p))))) s
def execMulhu (a : Issue) (rd ra rb : Reg) (s : State) : Out :=
  instr a (.mulhu a rd ra rb) 4 (seq (mulBody a.core false false ra rb (fun p => wG a.core rd (dw0 (BitVec.ofInt 72 p))))) s
def execMulw (a : Issue) (rd ra rb : Reg) (s : State) : Out :=
  instr a (.mulw a rd ra rb) 4 (seq (do
    needEven rd
    mulBody a.core false true ra rb (wI a.core true rd))) s
def execMulwu (a : Issue) (rd ra rb : Reg) (s : State) : Out :=
  instr a (.mulwu a rd ra rb) 4 (seq (do
    needEven rd
    mulBody a.core false false ra rb (wI a.core true rd))) s
def execMuld (a : Issue) (rd ra rb : Reg) (s : State) : Out :=
  instr a (.muld a rd ra rb) 4 (seq (do
    needEven rd
    needEven ra
    needEven rb
    mulBody a.core true false ra rb (wI a.core true rd))) s

/-! ## Divide (R158, R159) -/

/-- A divide or remainder: `out` writes the quotient, truncated toward zero, and the remainder, which takes the sign of the
dividend. A divisor of zero raises before the divider begins: no look-up in its table, and none of its cycles (R159, R165)
(DESIGN CHOICE, log 109). -/
def divBody (a : Issue) (wide signed : Bool) (ra rb : Reg) (out : Int → Int → M Unit) : M Unit := do
  let x ← rI a.core wide signed ra
  let y ← rI a.core wide signed rb
  if y = 0 then raise 6 2 0 0
  out (x.tdiv y) (x.tmod y)
  if x.natAbs < y.natAbs then divider a 4 4
  else if wide then divider a 21 75
  else divider a 14 39

def execDiv (a : Issue) (rd ra rb : Reg) (s : State) : Out :=
  instr a (.div a rd ra rb) 4 (seq (divBody a false true ra rb (fun q _ => wI a.core false rd q))) s
def execDivu (a : Issue) (rd ra rb : Reg) (s : State) : Out :=
  instr a (.divu a rd ra rb) 4 (seq (divBody a false false ra rb (fun q _ => wI a.core false rd q))) s
def execRem (a : Issue) (rd ra rb : Reg) (s : State) : Out :=
  instr a (.rem a rd ra rb) 4 (seq (divBody a false true ra rb (fun _ r => wI a.core false rd r))) s
def execRemu (a : Issue) (rd ra rb : Reg) (s : State) : Out :=
  instr a (.remu a rd ra rb) 4 (seq (divBody a false false ra rb (fun _ r => wI a.core false rd r))) s

/-- The pair of quotient and remainder. -/
def divPair (q r : Int) : DWord := mkd (BitVec.ofInt 36 q) (BitVec.ofInt 36 r)

def execDivrem (a : Issue) (rd ra rb : Reg) (s : State) : Out :=
  instr a (.divrem a rd ra rb) 4 (seq (do
    needEven rd
    divBody a false true ra rb (fun q r => wP a.core rd (divPair q r)))) s
def execDivremu (a : Issue) (rd ra rb : Reg) (s : State) : Out :=
  instr a (.divremu a rd ra rb) 4 (seq (do
    needEven rd
    divBody a false false ra rb (fun q r => wP a.core rd (divPair q r)))) s

/-- The 72-bit forms. -/
def divWide (a : Issue) (i : Instr) (signed : Bool) (rd ra rb : Reg) (out : Int → Int → M Unit) (s : State) : Out :=
  instr a i 4 (seq (do
    needEven rd
    needEven ra
    needEven rb
    divBody a true signed ra rb out)) s

def execDivd (a : Issue) (rd ra rb : Reg) (s : State) : Out :=
  divWide a (.divd a rd ra rb) true rd ra rb (fun q _ => wI a.core true rd q) s
def execDivdu (a : Issue) (rd ra rb : Reg) (s : State) : Out :=
  divWide a (.divdu a rd ra rb) false rd ra rb (fun q _ => wI a.core true rd q) s
def execRemd (a : Issue) (rd ra rb : Reg) (s : State) : Out :=
  divWide a (.remd a rd ra rb) true rd ra rb (fun _ r => wI a.core true rd r) s
def execRemdu (a : Issue) (rd ra rb : Reg) (s : State) : Out :=
  divWide a (.remdu a rd ra rb) false rd ra rb (fun _ r => wI a.core true rd r) s

/-- The end of a table reload and its self-check on core `k` (R162, R164): a pass returns the divider to table mode; the
third failure leaves the slot's divider in restoring mode for the rest of the run (R596) (DEDUCED, log 30). -/
def Sys.dividerReload (k : Nat) (pass : Bool) (s : Sys) : Sys :=
  match (s.core k).slot with
  | none => s
  | some n =>
    let v := s.slot n
    if !(s.core k).divm || 3 ≤ v.divFails then s
    else
      let t := s.tansy
      let s := { s with tansy := { t with divReloads := t.divReloads + 1,
                                          divFailed := if !pass && v.divFails = 2 then t.divFailed + 1 else t.divFailed } }
      if pass then s.divBad k false else s.setSlot n { v with divFails := v.divFails + 1 }

def execDividerReload (k : CoreId) (pass : Bool) (s : State) : Out := onSys (fun s => s.dividerReload k pass) s

/-! ## MAC2 (R176-R178) -/

/-- The alignment, translation and key checks of a word that MAC2 reads: its virtual and physical address. -/
def macPlace (k : Nat) (g : Word) : M (Nat × Nat) := do
  let va ← checkAddr 2 4 g.toNat
  let s ← get
  let x := s.ctx k
  let r ← xlate k (s.bankOf k) x x.status 2 va false
  pure (va, r.pa)

/-- Both words of MAC2: nothing is changed before both addresses have passed their checks (R178). -/
def macLoads (k : Nat) (ga gb : Word) : M (Word × Word) := do
  let s0 ← get
  let (p, q) ← tryCatch (do
    let p ← macPlace k ga
    let q ← macPlace k gb
    pure (p, q)) (fun st => do
      upd (fun s => { s0 with free := s.free })
      throw st)
  let x ← ctxM k
  let a ← loadPhys k x p.2 4 p.1 2 false
  let b ← loadPhys k x q.2 4 q.1 2 false
  pure (wordOf a, wordOf b)

/-- DEDUCED, log 29. -/
def mac2Body (k : Nat) (ra rb : Reg) (uns clr inc : Bool) : M Unit := do
  ownF k
  let ga ← rG k ra
  let gb ← rG k rb
  let (x, y) ← macLoads k ga gb
  let x := if clr then clearMarks x else x
  let y := if clr then clearMarks y else y
  let p := valOf (!uns) x * valOf (!uns) y
  let u ← getF k
  let t := valOf (!uns) u.acc + p
  if !(if uns then fitsU 72 t else fitsS 72 t) then modX k (fun c => { c with fsr := fsrAccv c.fsr })
  setF k (fun u => { u with acc := BitVec.ofInt 72 t })
  if inc then
    wG k ra (ga + 4)
    wG k rb (gb + 4)

def execMac2 (a : Issue) (ra rb : Reg) (uns clr inc : Bool) (s : State) : Out :=
  instr a (.mac2 a ra rb uns clr inc) 4 (seq (mac2Body a.core ra rb uns clr inc)) s

end Sys2Proof.Machine
end

