-- ==== Sys2Proof/Machine/Scb.lean ====
section
/-! DEFINITION. The Shelf Coordination Bus (17): each command is one bus cycle (or pair) that this module launches or
sees. The lock and lease tables are kept by the master, and by the standby from what it observes (R543). -/

namespace Sys2Proof.Machine

/-! ## The master's tables (R534, R539, R541) -/

def Master.lock (m : Master) (n : Nat) : MLock := tget {} m.locks n
def Master.setLock (n : Nat) (l : MLock) (m : Master) : Master := { m with locks := tset m.locks n l }

/-- Gives a lock to its first waiter, or leaves it free. -/
def Master.passOn (n : Nat) (m : Master) : Master :=
  let l := m.lock n
  match l.wait with
  | [] => m.setLock n { l with holder := none }
  | w :: ws =>
    let m := m.setLock n { l with holder := some w, wait := ws, ab := false }
    { m with out := m.out ++ [.grant w.1 n l.sq l.ab] }

/-- LKACQ of a live slot: granted, queued, or refused. -/
def Master.acquire (src n : Nat) (part : Option Nat) (m : Master) : Master :=
  let l := m.lock n
  match l.holder with
  | none => (m.setLock n { l with wait := l.wait ++ [(src, part)] }).passOn n
  | some h =>
    if h.1 = src || l.wait.any (fun w => w.1 = src) then m else m.setLock n { l with wait := l.wait ++ [(src, part)] }

def Master.withdraw (src n : Nat) (part : Option Nat) (m : Master) : Master :=
  let l := m.lock n
  m.setLock n { l with wait := l.wait.filter (fun w => w != (src, part)) }

def Master.abandon (src n : Nat) (part : Option Nat) (m : Master) : Master :=
  let l := m.lock n
  if l.holder = some (src, part) then (m.setLock n { l with ab := true }).passOn n else m

def Master.release (src n sq : Nat) (m : Master) : Master :=
  let l := m.lock n
  if l.holder.map (fun h => h.1) = some src then (m.setLock n { l with sq := sq }).passOn n else m

/-- A slot is dead: its waiting requests go, and its locks are abandoned. -/
def Master.deadLock (src : Nat) (m : Master) (n : Nat) : Master :=
  let l := m.lock n
  let l := { l with wait := l.wait.filter (fun w => w.1 != src) }
  if l.holder.map (fun h => h.1) = some src then (m.setLock n { l with ab := true }).passOn n else m.setLock n l

/-- The message is a grant for the slot. -/
def grantsTo (src : Nat) : BusMsg → Bool
  | .grant d _ _ _ => d = src
  | _ => false

def Master.dead (src : Nat) (m : Master) : Master :=
  let m : Master := { m with out := m.out.filter (fun c => !grantsTo src c) }
  (m.locks.map (fun x => x.1)).foldl (Master.deadLock src) m

/-- The base of the next lease of size `n`: the lowest multiple of the size above every lease issued
(DESIGN CHOICE, log 61). -/
def Master.nextBase (n : Nat) (m : Master) : Nat := (m.lend / n + 1) * n

/-- The message is an EPOCH for the slot (DESIGN CHOICE, log 61). -/
def epochFor (sl : Nat) : BusMsg → Bool
  | .epoch d _ _ _ => d = sl
  | _ => false

/-! ## Roles -/

/-- DESIGN CHOICE, log 62. -/
def State.role (s : State) : Nat := s.sys.port.role
def State.keeps (s : State) : Bool := s.role = 1 || s.role = 2
/-- DEDUCED, log 60. -/
def State.own (s : State) (src : Nat) : Bool := src = s.sys.img.mySlot.val
def State.live (s : State) (sl : Nat) : Bool := (s.sys.epSlot sl).live
def State.mod (f : Sys → Sys) (s : State) : State := { s with sys := f s.sys }
def State.modM (f : Master → Master) (s : State) : State := if s.keeps then { s with master := f s.master } else s

def State.modPort (f : Port → Port) (s : State) : State := s.mod (fun x => { x with port := f x.port })

/-- The slot of the master, as this module knows it. -/
def Sys.masterSlot (s : Sys) : Nat := if s.port.atS then s.img.sSlot else s.img.mSlot

/-! ## Codes and fields (R529, R531, R533) -/

/-- The codes of the answers (R531). -/
def Rsp.code : Rsp → BitVec 3
  | .ack => 0b000
  | .queued => 0b010
  | .refused => 0b011
  | .stale => 0b100
  | .busy => 0b101
  | .parerr => 0b110
  | .none => 0b111

/-- The requester of a lock: partition in bits 0-9, NONE in bit 10. -/
def reqWord (part : Option Nat) : Word :=
  match part with
  | some p => mkw 36 [(9, p)]
  | none => mkw 36 [(10, 1)]

/-- A single command's DAT. -/
def datOne (w : Word) : DWord := mkd w 0

/-- What the launcher of a command drives: CMD, ADR and DAT by R533, and the target in ID, 0 for a broadcast that names none
(DESIGN CHOICE, log 105). -/
def Sys.wires (s : Sys) : BusMsg → Wires
  | .lkacq n p => { cmd := 0b0010, id := BitVec.ofNat 6 s.masterSlot, adr := BitVec.ofNat 12 n, dat := datOne (reqWord p) }
  | .lkwd n p => { cmd := 0b0011, id := BitVec.ofNat 6 s.masterSlot, adr := BitVec.ofNat 12 n, dat := datOne (reqWord p) }
  | .lkabn n p => { cmd := 0b0100, id := BitVec.ofNat 6 s.masterSlot, adr := BitVec.ofNat 12 n, dat := datOne (reqWord p) }
  | .epoch sl live ident ep =>
    { cmd := 0b0101, id := BitVec.ofNat 6 sl, adr := 0, dat := datOne (mkw 36 [(0, live.toNat), (19, ident), (35, ep)]) }
  | .join => { cmd := 0b0110, id := BitVec.ofNat 6 s.masterSlot, adr := 0, dat := datOne (mkw 36 [(19, s.modid)]) }
  | .notice k d => { cmd := 0b0111, id := 0, adr := BitVec.ofNat 12 (k * 256), dat := datOne d }
  | .lease k => { cmd := 0b1000, id := BitVec.ofNat 6 s.masterSlot, adr := BitVec.ofNat 12 k, dat := 0 }
  | .lkrel n sq => { cmd := 0b1001, id := BitVec.ofNat 6 s.masterSlot, adr := BitVec.ofNat 12 n, dat := BitVec.ofNat 72 sq }
  | .grant sl n sq ab =>
    { cmd := if ab then 0b1011 else 0b1010, id := BitVec.ofNat 6 sl, adr := BitVec.ofNat 12 n, dat := BitVec.ofNat 72 sq }

def hbWires (ep : BitVec 16) : Wires := { cmd := 0b0001, id := 0, adr := 0, dat := datOne (mkw 36 [(35, ep.toNat)]) }
def timeWires (count : Nat) (a : BitVec 6) : Wires :=
  { cmd := 0b1100, id := 0, adr := a.setWidth 12, dat := BitVec.ofNat 72 count }

/-- A pair is a command whose CMD bit 0 is 1; 0b1111 is its second cycle (R529). -/
def Wires.pair (w : Wires) : Bool := w.cmd.getLsbD 3

/-- Even parity of bits (R522). -/
def evenPar (n : Nat) (v : Nat) : Bool := (List.range n).foldl (fun b i => b ^^ v.testBit i) false
def Wires.par0 (w : Wires) : Bool := evenPar 22 (w.cmd ++ w.id ++ w.adr).toNat
def Wires.par1 (w : Wires) : Bool × Bool := (evenPar 36 (dw0 w.dat).toNat, evenPar 36 (dw1 w.dat).toNat)

/-- The answer of a target to a code that R533 does not list. -/
def codeAnswer (cmd : BitVec 4) : Option Rsp := if cmd = 0b1101 || cmd = 0b1110 then some .refused else none

/-! ## Cycles and arbitration (R525-R529) -/

/-- How often the arbitration count advances before cycle `c`: not after the bridge's cycles and those with C mod 256 = 254
(R527). -/
def arbSteps (c : Nat) : Nat := c / 256 * 254 + min (c % 256) 254

/-- `n` single cycles pass: the 72-bit counter and the arbitration count (R525, R527). -/
def Port.pass (n : Nat) (p : Port) : Port :=
  { p with count := (p.count + n) % 2 ^ 72, acount := p.acount + BitVec.ofNat 6 (arbSteps (p.count + n) - arbSteps p.count) }

/-- The cycles of a command; the second of a pair is not arbitrated (R527, R529). -/
def Port.taken (pair : Bool) (p : Port) : Port :=
  let p := p.pass 1
  if pair then { p with count := (p.count + 1) % 2 ^ 72 } else p

/-- Cycles from `c` to the first that is open to a module's command: C mod 256 = 255 belongs to the bridge, and a pair starts
below 254 (R525, R529). -/
def toOpen (pair : Bool) (c : Nat) : Nat := if c % 256 = 255 then 1 else if pair && c % 256 = 254 then 2 else 0

/-- Cycles from `c` to the next that belongs to the bridge. -/
def toBridge (c : Nat) : Nat := 255 - c % 256

/-- The value that a contender drives (R526). -/
def arbVal (slot : Nat) (a : BitVec 6) : Nat := (slot + a.toNat) % 64

/-- This module contends and wins the cycle (R526, R528). The broadcast that sets the counters, and the JOIN of the module
that is to be the first master, cannot wait for one (`free`) (DEDUCED, log 97). -/
def State.wins (free : Bool) (y : BusCyc) (s : State) : Bool :=
  let p := s.sys.port
  let me := s.sys.img.mySlot
  (p.tsync || free) && y.rivals.all (fun r => r = me || arbVal r.val p.acount < arbVal me.val p.acount)

/-- A command on the bus: the cycles before it, and its own. One of this module (`mine`) has no effect in a cycle that the
module does not win; that another module won its cycle is the command itself (DESIGN CHOICE, log 62). -/
def State.onBus (mine free pair : Bool) (y : BusCyc) (f : State → State) (s : State) : State :=
  let s := s.modPort (fun p => let p := p.pass y.idle; { p.pass (toOpen pair p.count) with drove := none, answer := none })
  if mine && !s.wins free y then s else (f s).modPort (Port.taken pair)

/-! ## Answers (R531, R532) -/

/-- The command is the oldest in the port of this module, and the module has joined, unless it is JOIN. -/
def State.front (c : BusMsg) (s : State) : Bool := s.sys.port.out.head? = some c && (s.sys.joined || c = .join)

def State.popped (s : State) : State := s.modPort (fun p => { p with out := p.out.drop 1, again := false })

/-- This module launches a command. -/
def State.drive (w : Wires) (s : State) : State := s.modPort (fun p => { p with drove := some w })

/-- This module is the responder. -/
def State.respond (r : Rsp) (dat : DWord) (s : State) : State := s.modPort (fun p => { p with answer := some (r, dat) })

/-- This module answers as master (R544). -/
def State.answers (s : State) : Bool := s.role = 1 && !s.sys.port.mute

/-- The master's answer to a command of slot `src` (R531, R533); a lease of a size that does not exist is refused (DESIGN CHOICE,
log 61). -/
def State.masterAnswer (src : Nat) (c : BusMsg) (s : State) : Rsp :=
  let ok (b : Bool) : Rsp := if b then .ack else .refused
  match c with
  | .join => ok (!s.live src)
  | c =>
    if !s.live src then .stale
    else match c with
      | .lkacq n _ =>
        let l := s.master.lock n
        match l.holder with
        | none => .ack
        | some h => if h.1 = src || l.wait.any (fun w => w.1 = src) then .refused else .queued
      | .lkwd n p => ok ((s.master.lock n).wait.contains (src, p))
      | .lkabn n p => ok ((s.master.lock n).holder = some (src, p))
      | .lkrel n _ => ok ((s.master.lock n).holder.map (fun h => h.1) = some src)
      | .lease k => ok (k ≤ 10)
      | _ => .ack

/-- The launcher has to repeat the command, and counts that (R532). -/
def mustRepeat (r : Rsp) : Bool := r = .busy || r = .parerr || r = .none

def Port.repeated (r : Rsp) (p : Port) : Port :=
  if r = .parerr then { p with parerr := sat12 (p.parerr + 1) } else { p with noans := sat12 (p.noans + 1) }

def accepts (r : Rsp) : Bool := r = .ack || r = .queued

/-- STALE comes back to this module (R531, R542). -/
def State.gotStale (s : State) : State :=
  s.mod (fun x => Sys.actStale { x with port := { x.port with stale := sat12 (x.port.stale + 1) } })

/-- A command that a module sends to the master. This module's own must be at the front of its port; it stays there when it
has to be repeated, and leaves it with any other answer: the master's, or, where this module is the master, that of its own
tables. `port` is what the answer does at the launcher, `f` what acceptance does in the tables, `dat` what the master drives
(R531, R542). -/
def State.toMaster (src : Nat) (c : BusMsg) (y : BusCyc) (dat : DWord) (port : Rsp → Sys → Sys) (f : Master → Master)
    (s : State) : State :=
  let r : Rsp := if mustRepeat y.rsp then y.rsp
    else if s.role = 1 then (if s.answers then s.masterAnswer src c else .none) else y.rsp
  if s.own src then
    if !s.front c then s
    else
      let s := s.drive (s.sys.wires c)
      if mustRepeat r then s.modPort (Port.repeated r)
      else
        let s := s.popped
        let s := if s.role = 1 then s.respond r dat else s
        if r = .stale then s.gotStale
        else (if accepts r then s.modM f else s).mod (port r)
  else
    let s := if s.answers && y.rsp != .none then s.respond r (if r = .ack then dat else 0) else s
    if accepts r then s.modM f else s

/-- A broadcast of this module leaves its port after the second copy (R532). -/
def State.sentCopy (c : BusMsg) (s : State) : State :=
  let s := s.drive (s.sys.wires c)
  if s.sys.port.again then s.popped else s.modPort (fun p => { p with again := true })

/-- A copy of broadcast `key` of launcher `by'` as a listener takes it: with a parity error it is counted and does nothing; both copies
with one are a broadcast lost, and the module rejoins (R532). -/
def State.heard (by' : Nat) (key : Nat × Nat) (y : BusCyc) (f : State → State) (s : State) : State :=
  let bad : Bool := y.rsp = .parerr
  let s := if bad then s.modPort (fun p => { p with parerr := sat12 (p.parerr + 1) }) else s
  let first := (tfind s.sys.port.copies by').filter (fun c => (c.1, c.2.1) = key)
  let s := s.modPort (fun p => { p with
    copies := if first.isSome then terase p.copies by' else tset p.copies by' (key.1, key.2, bad) })
  if !bad then f s
  else if first.any (fun c => c.2.2) then
    let s := s.modPort (fun p => { p with desync := true })
    if s.sys.joined then s.mod Sys.rejoin else s
  else s

def partVal (p : Option PartId) : Option Nat := p.map (fun x => x.val)

/-! ## Locks (R535-R539) -/

/-- A command to the master, in its cycle or pair. -/
def State.ask (src : Nat) (pair : Bool) (c : BusMsg) (y : BusCyc) (dat : DWord) (port : Rsp → Sys → Sys) (f : Master → Master)
    (s : State) : State :=
  s.onBus (s.own src) false pair y (State.toMaster src c y dat port f)

/-- An answer that only tells. -/
def portNone (_ : Rsp) (s : Sys) : Sys := s

def execLkacq (src : Slot64) (lock : LockId) (part : Option PartId) (y : BusCyc) (s : State) : Out :=
  .next (s.ask src false (.lkacq lock (partVal part)) y 0 portNone (Master.acquire src lock (partVal part)))

/-- What the answer to LKWD does: one that is refused has crossed a grant, which is still to come (R536, R537). -/
def portWd (lock : Nat) (part : Option Nat) (r : Rsp) (s : Sys) : Sys := if accepts r then s.withdrawn lock part else s

def execLkwd (src : Slot64) (lock : LockId) (part : Option PartId) (y : BusCyc) (s : State) : Out :=
  .next (s.ask src false (.lkwd lock (partVal part)) y 0 (portWd lock (partVal part)) (Master.withdraw src lock (partVal part)))

def execLkabn (src : Slot64) (lock : LockId) (part : Option PartId) (y : BusCyc) (s : State) : Out :=
  .next (s.ask src false (.lkabn lock (partVal part)) y 0 portNone (Master.abandon src lock (partVal part)))

def execLkrel (src : Slot64) (lock : LockId) (sq : DWord) (y : BusCyc) (s : State) : Out :=
  .next (s.ask src true (.lkrel lock sq.toNat) y 0 portNone (Master.release src lock sq.toNat))

/-- The answer of the module that a GRANT is for: STALE to a launcher whose slot is not live (R531, R541). -/
def State.grantAnswer (launcher : Nat) (s : State) : Rsp := if s.live launcher then .ack else .stale

/-- A grant on the bus: the master launches its oldest command, the standby notes it, and the module it is for takes it
(DEDUCED, log 60). -/
def State.grantSeen (dst lock sq : Nat) (ab : Bool) (y : BusCyc) (s : State) : State :=
  let c : BusMsg := .grant dst lock sq ab
  let r : Rsp := if mustRepeat y.rsp || !s.own dst then y.rsp
    else s.grantAnswer (if s.role = 1 then s.sys.img.mySlot else y.master)
  let take (s : State) : State := if s.own dst && s.live dst && r = .ack then s.mod (Sys.granted lock sq ab) else s
  if s.role = 1 then
    if s.master.out.head? != some c then s
    else
      let s := s.drive (s.sys.wires c)
      if mustRepeat r then s.modPort (Port.repeated r)
      else
        let s : State := { s with master := { s.master with out := s.master.out.drop 1, again := false } }
        if r = .stale then s.gotStale else take s
  else
    let s := if s.own dst && y.rsp != .none then s.respond r 0 else s
    if r != .ack then s else take (s.modM (fun m => { m with out := m.out.erase c }))

def State.grantCmd (dst lock sq : Nat) (ab : Bool) (y : BusCyc) (s : State) : State :=
  s.onBus (s.role = 1) false true y (State.grantSeen dst lock sq ab y)

def execGrant (dst : Slot64) (lock : LockId) (sq : DWord) (y : BusCyc) (s : State) : Out :=
  .next (s.grantCmd dst lock sq.toNat false y)
def execGrantAb (dst : Slot64) (lock : LockId) (sq : DWord) (y : BusCyc) (s : State) : Out :=
  .next (s.grantCmd dst lock sq.toNat true y)

/-! ## Leases (R534, R271) -/

/-- The allocator receives a lease: one not above the floor is not used, and it asks again. -/
def Sys.leased (base n : Nat) (s : Sys) : Sys :=
  let s : Sys := { s with alloc := { s.alloc with asking := false } }
  if base ≤ s.alloc.floor then s.askLease
  else { s with alloc := { s.alloc with leases := s.alloc.leases ++ [(base, base + n - 1)] } }

/-- A LEASE: the master answers from its own pointer, and `base` is what another master answers; a size that does not exist gets no
numbers. -/
def execLease (src : Slot64) (code : Nat) (base : DWord) (y : BusCyc) (s : State) : Out :=
  let n := 2 ^ (code + 6)
  let b := if s.role = 1 then s.master.nextBase n else base.toNat
  .next (s.ask src true (.lease code) y (BitVec.ofNat 72 b) (fun r s => if accepts r && code ≤ 10 then s.leased b n else s)
    (fun m => if code ≤ 10 then { m with lend := max m.lend (b + n - 1) } else m))

/-! ## Liveness and epochs (R540-R542, R559, R560, R563, R572, R573) -/

/-- A heartbeat: its absence is what MODULE_DEAD and TAKEOVER report (R540). -/
def execHb (src : Slot64) (epoch : BitVec 16) (y : BusCyc) (s : State) : Out :=
  .next (s.onBus (s.own src) false false y (fun s => if s.own src then s.drive (hbWires epoch) else s.heard src (1, src) y id))

/-- The pairs of this module with a peer. -/
def Sys.pairsWith (s : Sys) (ident : Nat) : List Pair := s.img.pairs.filter (fun p => p.peer = ident)

/-- The standby is lost: the active side is DEGRADED (R572). -/
def Sys.degrade (s : Sys) (p : Pair) : Sys :=
  let st := s.pairSt p.part
  if p.standby then s.setPair p.part { st with lost := true }
  else if st.st ≤ 1 then
    ((s.setPair p.part { st with st := 2, degraded := true, pend := none }).packUpTo p.part none).balance.noticeFree p.part 5 531
  else s

/-- Updates the epoch record of an identity. -/
def Sys.recordEpoch (ident : Nat) (live : Bool) (ep : BitVec 16) (s : Sys) : Sys :=
  let old := s.epochOf ident
  let s := s.setEpoch ident (live, ep)
  if old.1 && !live then (s.pairsWith ident).foldl Sys.degrade (s.remoteLost ident)
  else if !old.1 && live then s.peerUp ident
  else s

/-- A module that was out takes part again: its paired active partitions end first (R573), and then it asks for a lease
(DESIGN CHOICE, log 62). -/
def Sys.endActive (s : Sys) (p : Pair) : Sys :=
  if p.standby then s
  else
    let s := s.setPair p.part { s.pairSt p.part with st := 3, pend := none }
    if (s.part p.part).st = 0 || (s.part p.part).st = 5 || (s.part p.part).after.contains .failover then s
    else s.reset p.part [.failover]

/-- The standby sides of a module that was out begin again at SYNCING: their buffers and their stream count are gone (R572)
(DEDUCED, log 64). -/
def Sys.standbyAgain (s : Sys) : Sys :=
  { s with fab := { s.fab with pairs := s.fab.pairs.map (fun x =>
      if x.2.st != 3 && s.img.pairs.any (fun p => p.part = x.1 && p.standby) then (x.1, { ({} : PairSt) with lost := x.2.lost })
      else x) } }

/-- This module's own slot in an EPOCH. -/
def Sys.ownEpoch (live : Bool) (ep : BitVec 16) (s : Sys) : Sys :=
  let s : Sys := { s with port := { s.port with epoch := ep } }
  if !live then
    if s.joined then ((({ s with port := { s.port with role := if s.port.role = 1 then 2 else s.port.role } } : Sys)).loseShelf).rejoin
    else if s.port.joining then s.rejoin
    else s
  else
  let s : Sys := { s with port := { s.port with out := s.port.out.filter (fun c => c != .join) } }
  if s.joined then
    if s.port.joining then
      (s.img.pairs.foldl Sys.endActive s.standbyAgain).rejoined
    else s
  else if s.port.joining then
    let r := if s.img.mySlot = s.img.mSlot || s.img.mySlot = s.img.sSlot then 2 else 0
    (({ s with port := { s.port with joining := false, role := r } } : Sys)).askLease
  else s

/-- Every module's view of an EPOCH broadcast; the second copy that R532 sends changes nothing more at its own slot. -/
def State.epochSeen (sl : Nat) (live : Bool) (ident : Nat) (ep : BitVec 16) (s : State) : State :=
  let old := s.sys.epSlot sl
  let s := s.mod (fun x => { x with port := { x.port with slots := tset x.port.slots sl { live := live, epoch := ep, ident := ident } } })
  let s := if live then s else s.modM (Master.dead sl)
  let s := s.mod (fun x => (x.img.peers.filter (fun p => p.slot = some sl)).foldl
    (fun (x : Sys) p => x.recordEpoch p.ident live ep) x)
  if s.own sl && !(old.live = live && old.epoch = ep) then s.mod (Sys.ownEpoch live ep) else s

/-- The body of an EPOCH packet (R554). -/
def epochBody (live : Bool) (ident : Nat) (ep : BitVec 16) : List Syl :=
  sylsW (mkw 36 [(0, live.toNat), (19, ident), (35, ep.toNat)])

/-- The master also tells the shelf peer list (R560). -/
def Sys.tellPeers (live : Bool) (ident : Nat) (ep : BitVec 16) (s : Sys) : Sys :=
  s.img.shelfPeers.foldl (fun (s : Sys) d => s.sendOff d 3 0o30 0 0 0 (epochBody live ident ep)) s

/-- An EPOCH: the master sends the oldest that it has to send, twice, and acts at the first copy; this module's own slot
declared dead is seen by it even then (DEDUCED, log 60). -/
def State.epochCmd (sl : Nat) (live : Bool) (ident : Nat) (ep : BitVec 16) (y : BusCyc) (s : State) : State :=
  if s.role = 1 then
    if s.master.out.head? = some (.epoch sl live ident ep.toNat) then
      let s := s.drive (s.sys.wires (.epoch sl live ident ep.toNat))
      if s.master.again then { s with master := { s.master with out := s.master.out.drop 1, again := false } }
      else (State.epochSeen sl live ident ep { s with master := { s.master with again := true } }).mod (Sys.tellPeers live ident ep)
    else if s.own sl && !live then s.epochSeen sl live ident ep
    else s
  else s.heard y.master (if live then 21 else 5, sl) y (fun s =>
    (s.modM (fun m => { m with out := m.out.filter (fun c => !epochFor sl c) })).epochSeen sl live ident ep)

/-- This module is the master that sends the EPOCH. -/
def State.sendsEpoch (sl : Nat) (live : Bool) (ident : Nat) (ep : BitVec 16) (s : State) : Bool :=
  s.role = 1 && s.master.out.head? = some (.epoch sl live ident ep.toNat)

def execEpoch (sl : Slot64) (live : Bool) (ident : BitVec 18) (ep : BitVec 16) (y : BusCyc) (s : State) : Out :=
  .next (s.onBus (s.sendsEpoch sl live ident.toNat ep) false false y (State.epochCmd sl live ident.toNat ep y))

/-- The master declares a live slot dead (R541) (DESIGN CHOICE, log 61). -/
def State.declareDead (sl : Nat) (s : State) : State :=
  let e := s.sys.epSlot sl
  if e.live && !s.master.out.any (epochFor sl) then
    s.modM (fun m => { m with out := m.out ++ [.epoch sl false e.ident (e.epoch + 1).toNat] })
  else s

/-- JOIN: the slot is declared dead, and one that was not live, whose JOIN is not refused, then becomes live with its new epoch; the
first master's own JOIN has nobody to declare dead (`first`) (R541, R542) (DESIGN CHOICE, log 61). -/
def State.joinSeen (first : Bool) (src : Nat) (ident : Nat) (s : State) : State :=
  let e := s.sys.epSlot src
  let ep := (e.epoch + 1).toNat
  if e.live then s.declareDead src
  else if s.master.out.any (epochFor src) then s
  else s.modM (fun m => { m with
    out := m.out ++ (if first then [] else [.epoch src false ident ep]) ++ [.epoch src true ident ep] })

/-- The first JOIN of the module that the image names as master (DESIGN CHOICE, log 62). -/
def State.firstJoin (s : State) : Bool :=
  !s.sys.joined && s.sys.img.mySlot = s.sys.img.mSlot && s.sys.port.takeovers = 0

/-- A JOIN of this module: the first master answers itself; another master's REFUSED has declared the slot dead. -/
def State.joinCmd (src : Nat) (ident : Nat) (y : BusCyc) (s : State) : State :=
  if s.own src then
    if !s.front .join then s
    else
      let s := s.drive (s.sys.wires .join)
      if s.firstJoin then ((s.popped.modPort (fun p => { p with role := 1 })).respond .ack 0).joinSeen true src ident
      else if mustRepeat y.rsp then s.modPort (Port.repeated y.rsp)
      else s.popped.joinSeen false src ident
  else
    let s := if s.answers && y.rsp != .none then s.respond (if mustRepeat y.rsp then y.rsp else s.masterAnswer src .join) 0 else s
    if mustRepeat y.rsp || (s.role = 1 && !s.answers) then s else s.joinSeen false src ident

def execJoin (src : Slot64) (ident : BitVec 18) (y : BusCyc) (s : State) : Out :=
  .next (s.onBus (s.own src) s.firstJoin false y (State.joinCmd src ident.toNat y))

/-- TIME sets the counter and the arbitration count of every module; the master sends its own (R525, R527). -/
def execTime (count : DWord) (acount : BitVec 6) (y : BusCyc) (s : State) : Out :=
  .next (s.onBus (s.role = 1) true true y (fun s =>
    if s.role = 1 then (s.drive (timeWires s.sys.port.count s.sys.port.acount)).modPort (fun p => { p with tsync := true })
    else s.heard y.master (12, 0) y (fun s => s.modPort (fun p => { p with count := count.toNat, acount := acount, tsync := true }))))

/-- A NOTICE that this module launches leaves its port; one of another module needs nothing here (R540). -/
def State.noticeCmd (src : Nat) (kind : Nat) (detail : Word) (y : BusCyc) (s : State) : State :=
  s.onBus (s.own src) false false y (fun s =>
    if s.own src then (if s.front (.notice kind detail) then s.sentCopy (.notice kind detail) else s)
    else s.heard src (7 + 16 * kind, src) y id)

def execPartitionReset (src : Slot64) (p : PartId) (y : BusCyc) (s : State) : Out :=
  .next (s.noticeCmd src 0 (BitVec.ofNat 36 p) y)
def execLockupNotice (src : Slot64) (ent : Word) (y : BusCyc) (s : State) : Out := .next (s.noticeCmd src 1 ent y)

/-- The bridge's notice, in a cycle of the bridge (R525, R540, R541). -/
def execFenceNotice (sl : Slot64) (y : BusCyc) (s : State) : Out :=
  let s := s.modPort (fun p => let p := p.pass y.idle; { p.pass (toBridge p.count) with drove := none, answer := none })
  .next ((s.heard 64 (39, sl) y (fun s => if s.role = 1 || s.role = 2 then s.declareDead sl else s)).modPort (Port.taken false))

def execModuleDead (sl : Slot64) (s : State) : Out := .next (if s.role = 1 then s.declareDead sl else s)

/-! ## Takeover (R544) -/

/-- The slot of the master that a standby follows. -/
def oldMaster (s : Sys) : Nat := if s.img.mySlot = s.img.sSlot then s.img.mSlot else s.img.sSlot

def leaseMargin : Nat := 0x20000

/-- The standby takes over: EPOCH and the TAKEOVER notice are to be broadcast first, and the lease pointer moves on. -/
def State.takeOver (s : State) : State :=
  let m := oldMaster s.sys
  let e := s.sys.epSlot m
  let s := s.modPort (fun p => { p with role := 1, mute := true, out := .notice 3 (BitVec.ofNat 36 s.sys.img.mySlot) :: p.out })
  s.modM (fun t => { t with
    lend := (t.lend / leaseMargin + 1) * leaseMargin + leaseMargin - 1
    out := .epoch m false e.ident (e.epoch + 1).toNat :: t.out.filter (fun c => !epochFor m c)
    again := false })

/-- This module's TAKEOVER notice goes out, both copies, once its EPOCH has; from then on it answers as master. -/
def State.takeoverNotice (s : State) : State :=
  let c := BusMsg.notice 3 (BitVec.ofNat 36 s.sys.img.mySlot)
  if !s.front c || s.master.out.any (epochFor (oldMaster s.sys)) then s
  else (s.drive (s.sys.wires c)).popped.modPort (fun p => { p with mute := false })

/-- TAKEOVER: at the standby, whose slot is live, the time-out; at a new master, its notice; at any other module, the notice of the new
master, both copies of it (R540, R544) (DESIGN CHOICE, log 62). -/
def execTakeover (s : State) : Out :=
  let counted (s : State) : State :=
    s.modPort (fun p => { p with takeovers := sat 255 (p.takeovers + 1), atS := !p.atS })
  .next (if s.role = 1 && s.sys.port.mute then s.takeoverNotice
    else if s.role = 2 && s.sys.ownLive then (counted s).takeOver
    else counted s)

end Sys2Proof.Machine
end

