-- ==== Sys2Proof/Machine/Boot.lean ====
section
/-! DEFINITION. Resets and start-up (19 R575-R603): the image's copies and their checks, the tables, core release, Custody
firmware's steps, and recovery mode. -/

namespace Sys2Proof.Machine

/-! ## Resets (R601, R632, R633) -/

/-- What every reset of the module leaves: fuses, flash, the journal devices (R601), pins, the host's memory, the counter of
free values, what the images loaded so far say (R3), the queue and a latched thermal trip; an operation of the recovery window stops (R603)
(DESIGN CHOICE, log 67). -/
def State.cleared (s : State) : State :=
  let s := s.rwStopped
  { sys := { host := s.sys.host, free := s.sys.free, jdev0 := s.sys.jdev0, jdev1 := s.sys.jdev1,
             tansy := { retired := s.sys.tansy.retired } },
    fuses := s.fuses, flash := s.flash, configs := s.configs, pending := s.pending,
    pwr := { steps := s.pwr.steps, applied := s.pwr.steps, pwrgood := s.pwr.pwrgood, rstLow := s.pwr.rstLow,
             perst := s.pwr.perst, bscan := s.pwr.bscan, ttrip := s.pwr.ttrip, clocksStopped := s.pwr.clocksStopped } }

/-- Tansy leaves reset (step 1), unless RST_L or a thermal trip holds it (DESIGN CHOICE, log 67). -/
def State.begin (s : State) : State :=
  if s.pwr.rstLow || s.pwr.ttrip || !s.pwr.pwrgood then s else { s with boot := { s.boot with steps := [1], sstat := 401 } }

/-- PWRGOOD rises: power-on reset. -/
def execPowerOn (s : State) : Out :=
  if s.pwr.pwrgood then .next s
  else
    let s := s.cleared
    .next (State.begin { s with pwr := { s.pwr with pwrgood := true, ttrip := false, clocksStopped := false } })

/-- PWRGOOD falls: everything but the loss monitors is held in reset, and a thermal trip is no longer latched. -/
def execPowerDown (s : State) : Out :=
  let t := s.cleared
  .next { t with pwr := { t.pwr with pwrgood := false, ttrip := false, clocksStopped := false, clkloss := s.pwr.clkloss,
                                     rail := s.pwr.rail } }

/-- The long instructions that Tansy executes, by major opcode: integer, load and store, branch, CALL, LOOP and
control-register instructions (R123, R575). -/
def tansyMajor (m : Nat) : Bool := (0o01 ≤ m && m ≤ 0o12) || (0o14 ≤ m && m ≤ 0o25) || (0o40 ≤ m && m ≤ 0o56)

/-- Tansy executes the encoding: of the system group's short forms, RET alone (R119, R575). -/
def tansyRuns (w : Word) : Bool :=
  (decodeWord { core := 0, irqAt := 0, hw := .none } w).isSome &&
  (if isLong (parcel0 w) then tansyMajor (fld w 2 7) else fld w 0 3 != 10 || fld w 4 7 = 0)

/-- RST_L is low: a module reset while PWRGOOD is high; start-up waits for its rising edge. An encoding that Tansy may not
execute raises illegal-instruction in Tansy, whose ROM resets the module (R575, R601); what Tansy's own program does is not
in the table (DESIGN CHOICE, log 99). -/
def execModuleReset (why : ResetBy) (s : State) : Out :=
  match why with
  | .rstL =>
    if s.pwr.pwrgood then
      let t := s.cleared
      .next { t with pwr := { t.pwr with rstLow := true } }
    else .next { s with pwr := { s.pwr with rstLow := true } }
  | .tansy w => if s.boot.steps.isEmpty || tansyRuns w then .next s else .next s.cleared.begin

def execResetRelease (s : State) : Out :=
  if s.pwr.rstLow then .next (State.begin { s with pwr := { s.pwr with rstLow := false } }) else .next s

/-- The watchdog expires (R602): a module reset, whose start-up follows at once. -/
def execWatchdogExpiry (s : State) : Out := if s.boot.steps.isEmpty then .next s else .next s.cleared.begin

/-! ## Steps of start-up (R592) -/

/-- Step `n` may complete: every step it waits for has, and start-up has not halted. -/
def State.mayStep (s : State) (n : Nat) (after : List Nat) : Bool :=
  s.pwr.pwrgood && !s.boot.halted && !s.boot.steps.contains n && after.all (fun k => s.boot.steps.contains k)

/-- SSTAT while steps run (DESIGN CHOICE, log 66). -/
def sstatOf (l : List Nat) : Nat :=
  if !l.contains 2 then 401
  else if !l.contains 3 || !l.contains 5 then 402
  else if !l.contains 6 || !l.contains 7 then 403
  else if !l.contains 9 then 404
  else if !l.contains 11 then 405
  else 400

/-- A step has completed; after a halt SSTAT keeps the halting code (R591) (DESIGN CHOICE, log 66). -/
def State.stepDone (n : Nat) (s : State) : State :=
  let l := ninsert s.boot.steps n
  { s with boot := { s.boot with steps := l, sstat := if s.boot.halted then s.boot.sstat else sstatOf l } }

/-- Recovery mode (R591): no core runs, no link is trained, the module is not on the SCB, and the window is open
(DESIGN CHOICE, log 66). -/
def State.halt (code : Nat) (s : State) : State :=
  let x := s.sys
  { s with boot := { s.boot with halted := true, sstat := code },
           sys := { x with cores := [], pf := { x.pf with rwopen := true, ready := false },
                           tansy := { x.tansy with slots := x.tansy.slots.map (fun n =>
                             (n.1, if n.2.st = .retired then n.2 else { n.2 with st := .off })) },
                           port := { x.port with role := 3, joining := false, out := [] },
                           fab := { x.fab with links := [] } } }

/-- Step 2 (R579, R580). -/
def execSfdpDiscovery (f : Sfdp) (s : State) : Out :=
  if !s.mayStep 2 [1] then .next s
  else
    let s := s.stepDone 2
    if f.answers && f.needed then
      .next { s with boot := { s.boot with mode := if f.octal then 1 else if f.quad then 2 else 3 } }
    else .next (State.halt 411 { s with boot := { s.boot with ares := 430, bres := 430 } })

/-- Step 3 (R439, R594): `ok` says which stacks calibrated and filled. -/
def execZeroFill (ok : BitVec 8) (ms : Nat) (s : State) : Out :=
  if !s.mayStep 3 [1] then .next s
  else
    let mc (m : Nat) : Mc :=
      if ok.getLsbD m then { up := true, filld := true, fillms := sat 65535 ms, inLap := true } else { fail := true }
    .next (State.stepDone 3 { s with sys := { s.sys with mem := [], poison := [], flips := [], dirs := [], keyc := [],
                                                         mcs := (List.range 8).map (fun m => (m, mc m)) } })

/-- Step 4, and every later training of the host link. -/
def execHostLinkTraining (s : State) : Out :=
  if s.pwr.perst || !s.boot.steps.contains 1 then .next s
  else .next (State.stepDone 4 { s with sys := { s.sys with pf := { s.sys.pf with linkUp := true } } })

/-! ## The image's copies (R582-R586) -/

/-- Octets in packed form as syllables (R582). -/
def flashSyls (l : List Octet) : List Syl := sylsOf (8 * l.length / 9) (natOfOcts l >>> (8 * l.length % 9))

/-- DESIGN CHOICE, log 59. -/
def copyBase (b : Bool) : Nat := if b then copySize else 0
def State.copyOcts (s : State) (b : Bool) (off n : Nat) : List Octet := flashGets s.flash (copyBase b + off) n
def wordAt (l : List Syl) (i : Nat) : Word := wordOf ((l.drop (4 * i)).take 4)

/-- An entry of the section directory. -/
structure Sect where
  typ : Nat
  enc : Bool
  off : Nat
  len : Nat
  rsv : Bool
  deriving DecidableEq, Repr

def Sect.octs (x : Sect) : Nat := if x.enc then x.len else (9 * x.len + 7) / 8

structure Header where
  words : List Word
  sects : List Sect
  deriving DecidableEq, Repr

def sectOf (l : List Syl) : Sect :=
  let w0 := wordAt l 0
  { typ := fld w0 28 35, enc := kbit w0 27, off := (wordAt l 1).toNat, len := (wordAt l 2).toNat,
    rsv := fld w0 0 26 != 0 || wordAt l 3 != 0 }

/-- The header and the directory of a copy; a count of sections out of range reads no directory. -/
def State.header (s : State) (b : Bool) : Header :=
  let h := flashSyls (s.copyOcts b 0 72)
  let n := fld (wordAt h 3) 28 35
  let d := if n ≤ 64 then flashSyls (s.copyOcts b 72 (18 * n)) else []
  { words := (List.range 16).map (wordAt h), sects := if n ≤ 64 then (List.range n).map (fun i => sectOf (d.drop (16 * i))) else [] }

def Header.word (h : Header) (i : Nat) : Word := (h.words[i]?).getD 0
def Header.gen (h : Header) : Nat := (h.word 2).toNat
def Header.sigoff (h : Header) : Nat := (h.word 4).toNat
def Header.nsec (h : Header) : Nat := fld (h.word 3) 28 35

def imageMagic : Word := 0o123131116001
def partNumber : Nat := 9600
def signatureSize : Nat := 193
def requiredTypes : List Nat := [1, 2, 3, 4, 5, 6, 11, 12, 15]

def sectsDisjoint : List Sect → Bool
  | [] => true
  | x :: l => l.all (fun y => x.off + x.octs ≤ y.off || y.off + y.octs ≤ x.off) && sectsDisjoint l

/-- The checks of R585 in their order: 0, or 431 or 432 (DESIGN CHOICE, log 26). -/
def Header.check (h : Header) : Nat :=
  let w1 := h.word 1
  if h.word 0 != imageMagic || fld w1 24 35 != 0 || fld (h.word 3) 0 27 != 0 || (h.words.drop 5).any (· != 0) ||
     h.sects.any (fun x => x.rsv) then 431
  else if fld w1 0 17 != partNumber || fld w1 18 20 != 1 || fld w1 21 23 != 1 then 432
  else if h.gen = 0 || h.nsec = 0 || 64 < h.nsec || h.sigoff % 36 != 0 || copySize < h.sigoff + signatureSize ||
     h.sects.any (fun x => x.typ = 0 || 15 < x.typ || x.off % 36 != 0 || x.off < 72 + 18 * h.nsec || h.sigoff < x.off + x.octs) ||
     !sectsDisjoint h.sects || requiredTypes.any (fun t => (h.sects.filter (fun x => x.typ = t)).length != 1) ||
     (List.range 16).any (fun t => 1 < (h.sects.filter (fun x => x.typ = t)).length) then 431
  else 0

def State.digest (s : State) (b : Bool) (h : Header) : List Octet := sha384 (s.copyOcts b 0 h.sigoff)

/-- The signature block (R586). -/
def State.signedOk (s : State) (b : Bool) (h : Header) : Bool :=
  let sig := s.copyOcts b h.sigoff signatureSize
  let key := sig.take 97
  sha384 key = s.fuses.keyHash && ecdsaVerify key (s.digest b h) ((sig.drop 97).take 48) ((sig.drop 145).take 48)

/-- The result for a copy, and its GEN where the header passed R585; `sec`: no required section fails its own format. -/
def State.copyCheck (s : State) (b sec : Bool) : Nat × Nat :=
  let h := s.header b
  let c := h.check
  if c != 0 then (c, 0)
  else if !s.signedOk b h then (433, h.gen)
  else if !sec then (435, h.gen)
  else (0, h.gen)

/-- The choice of R589 from the results that TS_BOOT holds (DESIGN CHOICE, log 26). -/
def State.choose (s : State) : State :=
  let b := s.boot
  let take (c : Bool) (w : Nat) : State := { s with boot := { b with chosen := c, cv := true, warn := b.warn ||| w } }
  if b.ares = 0 && b.bres = 0 then
    if b.genb < b.gena then take false 0
    else if b.gena < b.genb then take true 0
    else if s.digest false (s.header false) = s.digest true (s.header true) then take false 0
    else s.halt 412
  else if b.ares = 0 then take false 1
  else if b.bres = 0 then take true 1
  else State.halt 411 { s with boot := { b with cv := false, chosen := false } }

/-- Step 5. -/
def execImageCheck (secA secB : Bool) (ms : Nat) (s : State) : Out :=
  if !s.mayStep 5 [2] then .next s
  else
    let a := s.copyCheck false secA
    let b := s.copyCheck true secB
    let s := s.stepDone 5
    .next (State.choose { s with boot := { s.boot with ares := a.1, bres := b.1, gena := a.2, genb := b.2,
                                                       choseMs := sat 262143 ms } })

/-- After step 6, and once the tables say which CQ links are present, their training runs in the background (R551, R592). -/
def State.startTraining (s : State) : State :=
  if !s.boot.steps.contains 6 || s.boot.halted then s
  else { s with sys := (List.range 24).foldl (fun (x : Sys) l =>
    if x.img.links.getLsbD l && (x.link l).st = 0 then x.setLink l { x.link l with st := 1 } else x) s.sys }

/-- Step 6. -/
def execLaneCalibration (s : State) : Out := if s.mayStep 6 [5] then .next (s.stepDone 6).startTraining else .next s

/-! ## Decryption (R587, R588, R590) -/

/-- A wrapped key of 60 octets, unwrapped under the device-unique key. -/
def State.unwrap (s : State) (l : List Octet) : Option (List Octet) :=
  gcmOpen s.fuses.devKey (l.take 12) [] ((l.drop 12).take 32) ((l.drop 44).take 16)

/-- The octets of a section of the chosen copy. -/
def State.section (s : State) (typ : Nat) : Option (List Octet) :=
  ((s.header s.boot.chosen).sects.find? (fun x => x.typ = typ)).map (fun x => s.copyOcts s.boot.chosen x.off x.octs)

/-- The microcode patch (DESIGN CHOICE, log 26). -/
def State.patch (s : State) : Option (List Octet) :=
  match s.section 3 with
  | none => none
  | some l =>
    match s.unwrap l with
    | none => none
    | some k => gcmOpen k ((l.drop 60).take 12) [] (l.drop 88) ((l.drop 72).take 16)

/-- The seal-unit keys: those that open, and whether one failed. -/
def State.sealKeys (s : State) : Tbl (List Octet) × Bool :=
  match s.section 14 with
  | none => ([], false)
  | some l =>
    let n := min 16 (l.length / 60)
    let ks := (List.range n).map (fun i => (i, s.unwrap (l.drop (60 * i))))
    (ks.filterMap (fun k => k.2.map (fun v => (k.1, v))), ks.any (fun k => k.2.isNone))

/-! ## Validation of the tables (R198, R234, R241, R257, R455, R456) -/

/-- A defined rounding rule is valid. -/
def ruleOk (w0 w1 : Word) : Bool :=
  fld w0 27 35 = 0 && !kbit w0 0 && !kbit w0 9 && !kbit w0 18 && fld w1 4 7 = 0 && fld w1 22 25 = 0 &&
  (fld w1 1 2 != 3 || (1 ≤ fld w1 8 17 && fld w1 8 17 ≤ 999))

/-- The fields of a record format: offset and length. -/
def fmtFields (d : DWord) : List (Nat × Nat) :=
  [(fld d 5 10, fld d 11 15 + 1)] ++ (if kbit d 1 then [(fld d 16 21, fld d 22 26 + 1)] else []) ++
  (if kbit d 2 then [(8 * fld d 39 41, 8)] else []) ++ (if kbit d 3 then [(fld d 42 47, 1)] else []) ++
  (if kbit d 4 then [(fld d 56 61, 2)] else [])

def spansDisjoint : List (Nat × Nat) → Bool
  | [] => true
  | x :: l => l.all (fun y => x.1 + x.2 ≤ y.1 || y.1 + y.2 ≤ x.1) && spansDisjoint l

/-- DESIGN CHOICE, log 26. -/
def formatOk (d : DWord) : Bool :=
  fld d 27 38 = 0 && (fmtFields d).all (fun f => f.1 + f.2 ≤ 64) && spansDisjoint (fmtFields d) &&
  (kbit d 4 || fld d 62 71 ≤ 999)

def pageOk (h : Word) (l : List Half) : Bool :=
  fld h 10 35 = 0 && l.all (fun e => !kbit e 1 && !(kbit e 0 && 0xD800 ≤ fld e 2 17 && fld e 2 17 ≤ 0xDFFF))

/-- One state's action in a pattern entry, from bit `i`; a digit entry uses both halves. -/
def actionOk (e : DWord) (i : Nat) : Bool :=
  fld e i (i + 2) != 7 && fld e (i + 6) (i + 7) != 3 &&
  (!kbit e 9 || (fld e (i + 3) (i + 5) != 7 && fld e (i + 8) (i + 9) != 3))

/-- DESIGN CHOICE, log 26. -/
def patternOk (h : DWord) (l : List DWord) : Bool :=
  fld h 17 71 = 0 && fld h 1 8 ≤ 0xF6 &&
  l.all (fun e => !kbit e 0 || (fld e 20 35 = 0 && fld e 66 71 = 0 && actionOk e 36 && actionOk e 46 && actionOk e 56))

/-- Custody memory that the module parameters place: address and syllables. -/
def custodySpans (t : ImageTables) : List (Nat × Nat) :=
  t.custody ++ t.tables.map (fun a => (a, 0x400000)) ++ [(t.ksb, 0x4000000)] ++
  t.jrings.map (fun a => (a, 2 ^ (12 + t.rsz) * 128)) ++ [(t.ptable, 0x40000)]

/-- The stripes that a span touches. -/
def spanStripes (a n : Nat) : List Nat :=
  if n = 0 then [] else (List.range ((a + n - 1) / 0x2000000 + 1 - a / 0x2000000)).map (fun i => a / 0x2000000 + i)

/-- Every reserved field of an entry is zero, and every field lies in its range (R453). -/
def entryFields (e : Part) : Bool :=
  let ring (i : Nat) : Bool := fld (e.dword i) 5 31 = 0
  fld (e.word 0) 3 7 = 0 && 1 ≤ e.weight && fld (e.word 1) 0 3 = 0 && 1 ≤ e.taskq && e.taskq ≤ 4096 && 1 ≤ e.bankq &&
  e.bankq ≤ 64 && fld (e.word 1) 24 35 != 0 && 1 ≤ e.progq && e.progq ≤ 64 && e.prepq ≤ 512 && 16 ≤ e.lockq &&
  e.lockq ≤ 9216 && fld (e.word 2) 31 35 = 0 && 1 ≤ e.nq && e.nq ≤ 8 && fld (e.word 3) 28 35 = 0 && e.lkcnt ≤ 4096 &&
  fld (e.word 4) 25 35 = 0 && e.word 5 = 0 && fld (e.dword 6) 12 31 = 0 && e.dxt.2 % 64 = 0 && ring 8 && ring 10 && ring 12 &&
  [e.pcr, e.ntr, e.dcr].all (fun r => 6 ≤ r.1 && r.1 ≤ 20 && r.2 % 64 = 0) && e.word 14 = 0 && e.word 15 = 0 &&
  e.ranges.all (fun w => fld w 3 9 = 0) && (List.range 25).all (fun i => e.word (39 + i) = 0) && e.lkfirst + e.lkcnt ≤ 4096

/-- The table and rings of an entry: address and syllables. -/
def entrySpans (e : Part) : List (Nat × Nat) :=
  [(e.dxt.2, 8 * e.dxt.1), (e.pcr.2, 32 + 32 * 2 ^ e.pcr.1), (e.ntr.2, 32 + 32 * 2 ^ e.ntr.1),
   (e.dcr.2, 32 + 16 * 2 ^ e.dcr.1)]

/-- The checks of R455 on entry `n` of an image `t`; the memory ranges are those of the entry itself. -/
def entryValid (t : ImageTables) (n : Nat) (ws : List Word) : Bool :=
  let e : Part := { ent := ws }
  let s : Sys := { parts := [(n, e)], tabs := { img := t } }
  let on := e.ranges.filter (fun w => kbit w 0)
  let x : Ctx := { partid := partIdOf false n, status := 0 }
  let ext (d : DWord) : Bool := !kbit d 0 || (!extPG d && !s.extBad x d)
  fld (e.word 0) 26 35 = n && entryFields e && !on.isEmpty &&
  on.all (fun w => fld w 10 22 + fld w 23 35 * 2 ^ fld w 1 2 ≤ 8191) &&
  (custodySpans t).all (fun c => (spanStripes c.1 c.2).all (fun k => !on.any (fun w => rangeHas w k))) &&
  (entrySpans e).all (fun x => s.spanInRanges n x.1 x.2) && spansDisjoint (entrySpans e) &&
  ext (e.dword 32) && ext (e.dword 34) && (e.word 36).toNat % 2 = 0 && (e.word 37).toNat % 32 = 0

/-- Two entries' ranges share a stripe (R456). -/
def shareStripe (a b : Part) : Bool :=
  a.ranges.any (fun w => kbit w 0 &&
    (List.range (fld w 23 35 + 1)).any (fun k => b.ranges.any (fun v => rangeHas v (fld w 10 22 + k * 2 ^ fld w 1 2))))

/-- Loads the defined entries in index order: OFF, or INVALID with 612. -/
def loadParts (t : ImageTables) : List (Nat × List Word) → Tbl Part → Tbl Part
  | [], ps => ps
  | (n, ws) :: l, ps =>
    let e : Part := { ent := ws, auto := kbit ((ws[0]?).getD 0) 1 }
    if 1024 ≤ n || !kbit ((ws[0]?).getD 0) 0 then loadParts t l ps
    else if entryValid t n ws && !ps.any (fun p => p.2.st != 0 && shareStripe e p.2) then
      loadParts t l (tset ps n { e with st := 1 })
    else loadParts t l (tset ps n { st := 0, last := 612, auto := e.auto })

/-- Entries in ascending index order. -/
def sortEntries (l : List (Nat × List Word)) : Tbl (List Word) := l.foldl (fun t x => tset t x.1 x.2) []

/-! ## Step 7 (R592, R594, R595) -/

/-- The syllables of an unencrypted section of the chosen copy (R582, R584). -/
def State.tableSyls (s : State) (typ : Nat) : List Syl := ((s.section typ).map flashSyls).getD []

/-- A section that is an array of entries of `n` syllables each: at most `cap`, by index (DEDUCED, log 26). -/
def entriesOf (l : List Syl) (n cap : Nat) : List (Nat × List Syl) :=
  (List.range (min cap (l.length / n))).map (fun i => (i, (l.drop (n * i)).take n))

def halfOf (l : List Syl) : Half := BitVec.ofNat 18 (((l[0]?).getD 0).toNat * 512 + ((l[1]?).getD 0).toNat)
def halvesOf (l : List Syl) : List Half := (List.range (l.length / 2)).map (fun i => halfOf ((l.drop (2 * i)).take 2))
def dwordsOf (l : List Syl) : List DWord := (List.range (l.length / 8)).map (fun i => dwordOf ((l.drop (8 * i)).take 8))

/-- The tables of the sections whose layouts the spec gives, as the chosen copy holds them (R197, R233, R240, R256, R452,
R584): in index order, code pages from page 1 on. -/
def State.flashTables (s : State) (t : ImageTables) : ImageTables :=
  { t with
    parts := (entriesOf (s.tableSyls 5) 256 1024).map (fun e => (e.1, wordsOf e.2)),
    formats := (entriesOf (s.tableSyls 7) 8 64).map (fun e => (e.1, dwordOf e.2)),
    rules := (entriesOf (s.tableSyls 8) 8 64).map (fun e => (e.1, wordAt e.2 0, wordAt e.2 1)),
    pages := (entriesOf (s.tableSyls 9) 516 7).map (fun e => (e.1 + 1, wordAt e.2 0, halvesOf (e.2.drop 4))),
    patterns := (entriesOf (s.tableSyls 10) 520 16).map (fun e => (e.1, dwordOf (e.2.take 8), dwordsOf (e.2.drop 8))) }

/-- The tables with the entries that pass their checks (DESIGN CHOICE, log 26). -/
def loadTables (t : ImageTables) (patch : List Octet) (keys : Tbl (List Octet)) : Tables :=
  { img := t, loaded := true, patch := patch, keys := keys,
    rules := (t.rules.filter (fun r => kbit r.2.2 0 && ruleOk r.2.1 r.2.2)).foldl (fun x r => tset x r.1 r.2.2) [],
    formats := (t.formats.filter (fun f => kbit f.2 0 && formatOk f.2)).foldl (fun x f => tset x f.1 f.2) [],
    pages := (t.pages.filter (fun p => 1 ≤ p.1 && p.1 ≤ 7 && kbit p.2.1 0 && pageOk p.2.1 p.2.2)).foldl
      (fun x p => tset x p.1 { hdr := p.2.1, ents := p.2.2 }) [],
    patterns := (t.patterns.filter (fun p => p.1 ≤ 15 && kbit p.2.1 0 && patternOk p.2.1 p.2.2)).foldl
      (fun x p => tset x p.1 { hdr := p.2.1, ents := p.2.2 }) [] }

/-- TS_BOOT.REJ: what was loaded as absent or invalid; a rounding rule of the image with V = 0 counts (R198, R595). -/
def rejected (t : ImageTables) (ps : Tbl Part) (keys : Bool) : Nat :=
  mkh [(0, (t.rules.any (fun r => !kbit r.2.2 0 || !ruleOk r.2.1 r.2.2)).toNat),
       (1, (t.pages.any (fun p => kbit p.2.1 0 && !pageOk p.2.1 p.2.2)).toNat),
       (2, (t.patterns.any (fun p => kbit p.2.1 0 && !patternOk p.2.1 p.2.2)).toNat),
       (3, (t.formats.any (fun f => kbit f.2 0 && !formatOk f.2)).toNat),
       (4, (ps.any (fun p => p.2.last = 612)).toNat), (5, keys.toNat)]

/-- Partitions with a stripe on a stack that was lost at start are LOST (R594). -/
def Sys.lostAtStart (s : Sys) : Sys :=
  (List.range 8).foldl (fun (s : Sys) m =>
    if (s.mc m).fail then (s.parts.map (fun p => p.1)).foldl (fun (s : Sys) p =>
      let e := s.part p
      if e.st != 0 && e.onStack m then
        s.setPart p { e with st := 5, last := 620, lostm := e.lostm ||| BitVec.ofNat 8 (2 ^ m) }
      else s) s
    else s) s

/-- The partition table in Custody memory: 64 words for each entry (DESIGN CHOICE, log 26). -/
def Sys.writeTable (l : Tbl (List Word)) (s : Sys) : Sys :=
  l.foldl (fun (s : Sys) e => s.wr (s.img.ptable + 256 * e.1) (wordsToSyls ((List.range 64).map (fun i => (e.2[i]?).getD 0)))) s

/-- Loads the chosen copy, whose sections hold `t`. -/
def State.loadCopy (t : ImageTables) (patch : List Octet) (s : State) : State :=
  let ks := s.sealKeys
  let es := sortEntries t.parts
  let ps := loadParts t es []
  let x : Sys := { s.sys with tabs := loadTables t patch ks.1, parts := ps,
                              fab := { s.sys.fab with pairs := t.pairs.foldl (fun f p => tset f p.part {}) [] } }
  let x := (x.writeTable es).lostAtStart
  let rej := rejected t ps ks.2
  let lost := (List.range 8).any (fun m => (x.mc m).fail)
  let w := (if rej != 0 then 2 else 0) ||| (if lost then 4 else 0)
  let s := State.stepDone 7 { s with sys := x, boot := { s.boot with rej := rej, warn := s.boot.warn ||| w } }
  if (custodySpans t).any (fun c => (spanStripes c.1 c.2).any (fun k => (x.mc (k % 8)).fail)) then s.halt 419 else s

/-- The chosen copy becomes invalid with `code`, and the choice is made again (R589, R590). -/
def State.rejectCopy (code : Nat) (s : State) : State :=
  let b := s.boot
  State.choose { s with boot := if b.chosen then { b with bres := code } else { b with ares := code } }

/-- The patch goes into the patch RAM and the match registers of every core slot (R322). -/
def Sys.loadPatch (l : List Octet) (s : Sys) : Sys :=
  let p := Patch.ofOctets l
  (List.range 108).foldl (fun s n => s.setSlot n { s.slot n with patch := p }) s

/-- The self-checks of the reciprocal tables: slots with the number of checks that failed; three leave a divider in
restoring mode (R162, R596). -/
def Sys.selfCheck (l : List (Nat × Nat)) (s : Sys) : Sys :=
  l.foldl (fun s d =>
    let s := s.setSlot d.1 { s.slot d.1 with divFails := d.2 }
    if d.2 < 3 then s else { s with tansy := { s.tansy with divFailed := s.tansy.divFailed + 1 } }) s

/-- The octets of the chosen copy's sections without a layout in the spec, and what they say: the same octets configure the
same machine at every start, and octets that no start has loaded before say `t` (R3) (DESIGN CHOICE, log 26). -/
def State.configOcts (s : State) : List (List Octet) := [1, 2, 4, 6, 11, 12, 13, 15].map (fun n => (s.section n).getD [])
def State.configOf (s : State) (t : ImageTables) : ImageTables :=
  ((s.configs.find? (fun c => c.1 = s.configOcts)).map (fun c => c.2)).getD t

/-- Step 7 (R592): `t` are the sections without a layout in the spec, `div` the dividers that failed self-checks. A copy
whose patch does not open becomes invalid with 434 (R590), and one whose Custody templates do not map the task tables with
435 (R646). -/
def execTableLoad (t : ImageTables) (div : List (Nat × Nat)) (s : State) : Out :=
  if !s.mayStep 7 [3, 5] || !s.boot.cv then .next s
  else
  let t := s.configOf t
  if !templatesOk t then .next (s.rejectCopy 435)
  else match s.patch with
    | some p =>
      let s := { s with configs := if s.configs.any (fun c => c.1 = s.configOcts) then s.configs else (s.configOcts, t) :: s.configs }
      .next (State.mod (fun x => (x.loadPatch p).selfCheck div) (s.loadCopy (s.flashTables t) p)).startTraining
    | none => .next (s.rejectCopy 434)

/-! ## Step 8 (R18, R592) -/

/-- Logical core and slot, for the usable slots of a cluster. -/
def assignSlots (us : List Nat) : List (Nat × Nat) :=
  let ks := List.range (min us.length 8)
  let own := ks.filter (fun i => us.contains i)
  own.map (fun i => (i, i)) ++ (ks.filter (fun i => !us.contains i)).zip (us.filter (fun i => !own.contains i))

def usableSlots (s : Sys) (c : Nat) : List Nat := (List.range 9).filter (fun i => !s.tansy.retired.contains (slotKey c i))

/-- One cluster's slots: released, spare, retired. -/
def Sys.releaseCluster (s : Sys) (c : Nat) : Sys :=
  let us := usableSlots s c
  let as := assignSlots us
  let s := (List.range 9).foldl (fun (s : Sys) i => s.setSlot (slotKey c i)
    { s.slot (slotKey c i) with st := if !us.contains i then .retired else if as.any (fun a => a.2 = i) then .off else .spare }) s
  as.foldl (fun (s : Sys) a => s.release (8 * c + a.1) (slotKey c a.2)) s

/-- The context in which Tansy releases Custody firmware: the housekeeping task of cluster `c`, on its lowest core (R94,
R390, R368). -/
def Sys.releaseCustody (s : Sys) (c : Nat) : Sys :=
  let k := 8 * c
  if (s.core k).slot.isNone then s
  else
    let gen := s.nextGen c 0
    let x : Ctx := { pc := s.img.entry, taskid := taskId c 0 gen, partid := partIdOf true 0, sspC := s.taskStack c 0,
                     wc := { exts := tblOf (s.template c) } }
    let s := s.modCore k (fun co => { co with cur := some 0, banks := tset co.banks 0 x })
    let s := s.setTask c 0 { state := 2, noPart := true, w := true, gen := gen, resid := some (k, 0) }
    s.releaseNotices c

def execCoreRelease (s : State) : Out :=
  if !s.mayStep 8 [6, 7] then .next s
  else
    let x := (List.range 12).foldl Sys.releaseCluster s.sys
    .next (State.stepDone 8 { s with sys := [0, 3, 6, 9].foldl Sys.releaseCustody x })

/-! ## Steps 9 to 11 (R390, R593, R598) -/

/-- The housekeeping task that the firmware creates in a cluster; what it puts into the creation block is the firmware's
(DESIGN CHOICE, log 50). -/
def Sys.createHousekeeping (s : Sys) (c : Nat) : Sys :=
  if (s.task c 0).state != 0 then s
  else
    let f := s.fresh 36
    let g := f.2.fresh 9
    let h := g.2.fresh 36
    let j := h.2.fresh 36
    let k := j.2.fresh 3
    let p := k.2.fresh 3
    let s := p.2
    let gen := s.nextGen c 0
    let x : Ctx := { pc := f.1 &&& ~~~1, status := setFld (mkw 36 [(0, 1), (9, g.1.toNat)]) 10 12 (k.1.toNat % 5),
                     taskid := taskId c 0 gen, partid := partIdOf true 0, sspC := s.taskStack c 0,
                     wc := { exts := tblOf (s.template c) } }
    let t : Task := { state := 1, pri := p.1.toNat, noPart := true, w := true, gen := gen, init := some ((x.wrG 30 h.1).wrG 5 j.1) }
    ((s.setTask c 0 t).becomeReady c 0).releaseNotices c

def execCustodyStart (j0 j1 : Bool) (s : State) : Out :=
  if !s.mayStep 9 [8] then .next s
  else
    let x := [1, 2, 4, 5, 7, 8, 10, 11].foldl Sys.createHousekeeping s.sys
    let x := if j0 then x.deviceOnline false else x
    let x := if j1 then x.deviceOnline true else x
    .next (State.stepDone 9 { s with sys := x.rejoin, pwr := { s.pwr with j0Low := !j0, j1Low := !j1 } })

def Sys.autoStart (s : Sys) : Sys :=
  (s.parts.map (fun p => p.1)).foldl (fun (s : Sys) p =>
    if (s.part p).auto && (s.part p).st != 0 then (s.lifecycle .start p false).2 else s) s

def execPartitionAutostart (s : State) : Out :=
  if s.mayStep 10 [9] then .next (State.stepDone 10 { s with sys := s.sys.autoStart }) else .next s

def execReadyReport (ms : Nat) (s : State) : Out :=
  if s.mayStep 11 [10] then
    let s := s.stepDone 11
    .next { s with boot := { s.boot with readyMs := sat 262143 ms }, sys := { s.sys with pf := { s.sys.pf with ready := true } } }
  else .next s

/-- The Custody limit passes before READY. -/
def execCustodyTimeout (s : State) : Out := if s.mayStep 11 [8] then .next (s.halt 413) else .next s

end Sys2Proof.Machine
end

