-- ==== Sys2Proof/Machine/Coherence.lean ====
section
/-! DEFINITION. The home agents (13 R427-R443): the directory, the line tracker, uncached accesses; and the store queue's
and the invalidations' steps (09 R299, 12 R410-R413). The data of a line is the one memory of the model (R642): the
directory says who holds it. -/

namespace Sys2Proof.Machine

/-! ## Store commits and invalidations -/

/-- A FENCE that waited for the store queue completes (R434). -/
def Sys.fenceDone (k : Nat) (s : Sys) : Sys :=
  match (s.core k).waitc with
  | some (.fence lf) =>
    if (s.core k).sq.isEmpty && (s.running k).isSome then
      (s.modCore k (fun c => { c with waitc := none })).retire k (if lf then 4 else 2) .seq
    else s
  | _ => s

/-- An IVSYNC completes once every target has acknowledged and the stores that may have used what was removed have committed
(R412). -/
def Sys.ivsyncDone (k : Nat) (s : Sys) : Sys :=
  if (s.core k).waitc = some .ivsync && (s.running k).isSome && (s.ctx k).ivOut.isEmpty && (s.core k).ivSt = 0 then
    (s.modCore k (fun c => { c with waitc := none })).retire k 4 .seq
  else s

/-- What waited for the store queue of a core goes on: an entry, a FENCE, an IVSYNC (R331, R412, R434). -/
def Sys.storesMoved (k : Nat) (s : Sys) : Sys := ((s.entryDone k).fenceDone k).ivsyncDone k

def execStoreCommit (k : CoreId) (s : State) : Out := onSys (fun s => (s.commitOne k).storesMoved k) s

/-- The store that a locked line held back tries again (R262, R644). -/
def execLockedLineRetry (k : CoreId) (s : State) : Out :=
  onSys (fun s => match (s.core k).sq with
    | e :: _ => if e.retry then (s.commitOne k).storesMoved k else s
    | [] => s) s

/-- Core `k` applies the oldest invalidation that has reached it, after its queued stores, and acknowledges (R411). -/
def Sys.invalidate (k : Nat) (s : Sys) : Sys :=
  match (s.core k).invq with
  | [] => s
  | v :: vs =>
    let s := (s.drainSq k).storesMoved k
    if !(s.core k).sq.isEmpty then s
    else
      let s := (s.modCore k (fun c => { c with invq := vs })).applyInv k v.scope
      s.modCore v.src (fun c => { c with acks := c.acks ++ [{ core := k, slot := v.slot, task := v.task }] })

def execInvalidation (k : CoreId) (s : State) : Out := onSys (fun s => s.invalidate k) s

/-- The task that issued an invalidation no longer awaits core `src`: in whatever bank of the cluster it is, or spilled
(R412, R357). -/
def Sys.creditAck (src k : Nat) (task : Word) (s : Sys) : Sys :=
  let c := clusterOf k
  let s := (coresOf c).foldl (fun s j => s.modCore j (fun co =>
    { co with banks := co.banks.map (fun b =>
        if b.2.taskid = task then (b.1, { b.2 with ivOut := b.2.ivOut.erase src }) else b) })) s
  let s := match s.findTask c task with
    | some i => if (s.task c i).ivOut.isEmpty then s else s.modTask c i (fun t => { t with ivOut := t.ivOut.erase src })
    | none => s
  (coresOf c).foldl (fun s j => s.ivsyncDone j) s

/-- The acknowledgement of core `src` reaches core `k`; one for a slot that no longer carries the core is discarded and
counted, and the context that awaits it no longer does, since the mesh port acknowledged in the slot's place (R29, R44, R411)
(DESIGN CHOICE, log 17). -/
def Sys.invAck (src k : Nat) (s : Sys) : Sys :=
  match (s.core k).acks.find? (fun a => a.core = src) with
  | none => s
  | some a =>
    let s := s.modCore k (fun c => { c with acks := c.acks.erase a })
    let s := if a.slot != (s.core k).slot then s.discarded else s
    s.creditAck src k a.task

def execInvalidationAck (src k : CoreId) (s : State) : Out := onSys (fun s => s.invAck src k) s

/-! ## Requests to a home agent (R427-R432) -/

/-- An address at which no home agent can be asked: beyond the 2^38 syllables of memory. -/
def atHome (addr : Nat) (f : Sys → Sys) (s : State) : Out :=
  if memSize ≤ addr then .fault (.noSuchAddress addr) else onSys f s

/-- A request for a line, whose stored bits may have changed by `e` since they were written: it reaches the line tracker of its home
agent, which serves what it can in the order of R430 (R429); one to memory that is not filled yet is not served (R440). -/
def Sys.request (g : Agent) (line : Nat) (own : Bool) (e : Ecc) (s : Sys) : Sys :=
  let s := s.addFlips e
  if !s.lineUp line || !agentCaches g then s
  else (s.track { agent := g, line := line, req := if own then .own else .share }).serveTrackers

def execReadRequest (g : Agent) (line : Nat) (e : Ecc) (s : State) : Out :=
  atHome (64 * line) (fun s => s.request g line false e) s
def execOwnershipRequest (g : Agent) (line : Nat) (e : Ecc) (s : State) : Out :=
  atHome (64 * line) (fun s => s.request g line true e) s

/-- The owner's answer to a forward: the line, or that its writeback is on the way (R431). A cluster that answers a read
keeps the line as a sharer (DESIGN CHOICE, log 23). -/
def Sys.forward (line : Nat) (inFlight : Bool) (s : Sys) : Sys :=
  let d := s.dir line
  if inFlight then
    if d.late != 0 then s.setDir line { d with late := d.late - 1 }
    else if d.pend.isSome then s.setDir line { d with inFlight := true } else s
  else match d.pend, d.owner with
    | some (g, own), some _ => if d.inFlight then s else (s.hand g line own).serveTrackers
    | _, _ => s

def execForward (line : Nat) (inFlight : Bool) (s : State) : Out :=
  atHome (64 * line) (fun s => s.forward line inFlight) s

/-- A writeback of the owner: memory has the line, and the first requester in the order of R430 gets its data (R431)
(DESIGN CHOICE, log 23). -/
def Sys.writeback (g : Agent) (line : Nat) (s : Sys) : Sys :=
  if (s.dir line).owner != some g then s
  else
    let s := match g with
      | .cluster c => s.dropCluster c line
      | _ => s
    (s.ownerGone line).serveTrackers

def execWriteback (g : Agent) (line : Nat) (s : State) : Out := atHome (64 * line) (fun s => s.writeback g line) s

/-! ## Uncached accesses (R432, R441-R445) -/

/-- A read without caching: from the stack, or a copy from the owner, or from the Balance Unit that locks the line. -/
def Sys.uncachedRead (g : Agent) (a n : Nat) (e : Ecc) (s : Sys) : Sys :=
  let s := s.addFlips e
  if (linesOf a n).all (fun ln => s.lineUp ln) then (s.track { agent := g, line := a / 64, req := .read a n }).serveTrackers else s

def execUncachedRead (g : Agent) (addr len : Nat) (e : Ecc) (s : State) : Out :=
  if memSize < addr + len then .fault (.noSuchAddress addr)
  else atHome addr (fun s => s.uncachedRead g addr len e) s

/-- A write without caching: every holder loses the line, then memory is written; one that meets a locked line, or a line in state T,
waits. -/
def Sys.uncachedWrite (g : Agent) (a : Nat) (l : List Syl) (s : Sys) : Sys :=
  if (linesOf a l.length).all (fun ln => s.lineUp ln) then
    (s.track { agent := g, line := a / 64, req := .write a l }).serveTrackers.drainAll
  else s

def writeAt (g : Agent) (addr : Nat) (data : List Syl) (s : State) : Out :=
  if memSize < addr + data.length then .fault (.noSuchAddress addr)
  else atHome addr (fun s => s.uncachedWrite g addr data) s

def execUncachedWrite (g : Agent) (addr : Nat) (data : List Syl) (s : State) : Out := writeAt g addr data s

/-- A write of part of a code word: read, corrected, merged and written back as one action; a poisoned code word stays
(R441, R443). -/
def execPartialWrite (g : Agent) (addr : Nat) (data : List Syl) (s : State) : Out := writeAt g addr data s

end Sys2Proof.Machine
end

