-- ==== Sys2Proof/Machine/Span.lean ====
section
/-! DEFINITION. Operands that are spans of syllables at any address: decimal fields, strings, records and descriptors
(02 R53, R59; 06 R181, R188; 07 R247). A read waits for older stores that it meets (R301); a write waits until every
older store of the context has committed (R433), and for a line that a Balance Unit has locked (R644). -/

namespace Sys2Proof.Machine

/-- A translated span: its virtual address and its pieces (physical address, length, leaf of the dirty mark). -/
structure Span where
  va     : Nat
  pieces : List (Nat × Nat × Option (Nat × DWord))
  deriving DecidableEq, Repr

/-- Step 2 of R188 for one operand and one access. -/
def spanXl (k acc va n : Nat) : M Span := do
  let s ← get
  let l ← xlateSpan k (s.bankOf k) (s.ctx k) acc (n / 4096 + 2) va n
  pure { va := va, pieces := l }

/-- An operand that is read and written: both rights, the read checks of all its pages before the write checks of any
(DESIGN CHOICE, log 83). -/
def spanRw (k va n : Nat) : M Span := do
  let _ ← spanXl k 2 va n
  spanXl k 3 va n

/-- The pieces of a span, of which each is in memory or in one store that covers it (R301). -/
def readPieces (k va : Nat) : List (Nat × Nat × Option (Nat × DWord)) → M (List Syl)
  | [] => pure []
  | p :: ps => do
    let s ← get
    let here ← if memSize ≤ p.1 then pure (List.replicate p.2.1 0)
      else match (s.core k).sq.reverse.find? (fun e => e.overlaps p.1 p.2.1) with
        | some e => pure ((e.data.drop (p.1 - e.pa)).take p.2.1)
        | none => readMem k false p.1 p.2.1 va 2
    let rest ← readPieces k (va + p.2.1) ps
    pure (here ++ rest)

/-- The syllables of a span; poison is consumed (R446) (DEDUCED, log 34). -/
def Span.read (k : Nat) (p : Span) : M (List Syl) := do
  p.pieces.forM (fun q => do
    let s ← get
    match (s.core k).sq.reverse.find? (fun e => e.overlaps q.1 q.2.1) with
    | some e => if e.holds q.1 q.2.1 then pure () else drainFor k q.1 q.2.1
    | none => pure ())
  readPieces k p.va p.pieces

/-- The entries that a write of a span commits, piece by piece in ascending order. -/
def Span.entries (b : Nat) (x : Ctx) (va : Nat) : List (Nat × Nat × Option (Nat × DWord)) → List Syl → List StoreEnt
  | [], _ => []
  | p :: ps, l =>
    { pa := p.1, va := va, data := l.take p.2.1, bank := b, world := x.custody, sup := x.sup, leaf := p.2.2, part := x.owner } ::
      Span.entries b x (va + p.2.1) ps (l.drop p.2.1)

/-- Whether one of some stores of core `k` has to wait (R262, R429, R644). -/
def Sys.entsWait (k : Nat) : List StoreEnt → Sys → Bool × Sys
  | [], s => (false, s)
  | e :: es, s =>
    let r := s.commitWaits k e
    if r.1 then r else Sys.entsWait k es r.2

/-- Waits until a span may be written: its lines and those of its leaves. -/
def Span.ready (k : Nat) (p : Span) : M Unit := do
  drain k
  let s ← get
  let n := p.pieces.foldl (fun n q => n + q.2.1) 0
  let r := s.entsWait k (Span.entries (s.bankOf k) (s.ctx k) p.va p.pieces (List.replicate n 0))
  if r.1 then
    upd (fun _ => r.2)
    throw .stay

/-- Writes whole syllables; a piece in I/O space is no access of a command port (R364, R643) (DEDUCED, log 34). -/
def Span.write (k : Nat) (p : Span) (l : List Syl) : M Unit := do
  p.ready k
  let s ← get
  let es := (Span.entries (s.bankOf k) (s.ctx k) p.va p.pieces l).filter (fun e => e.pa < memSize)
  upd (fun s => es.foldl (fun s e => s.commitEnt k e) s)

/-- What the span's memory holds, whether poisoned or not. -/
def Span.peek (s : Sys) (p : Span) : List Syl := p.pieces.flatMap (fun q => s.rd q.1 q.2.1)

/-- Writes octets only; each mark stays (R59) (DEDUCED, log 36). -/
def Span.writeOctets (k : Nat) (p : Span) (l : List Octet) : M Unit := do
  p.ready k
  let s ← get
  p.write k (octetsOver (p.peek s) l)

/-- The syllables of a span of `n` at `va`, for one read. -/
def readSpan (k va n : Nat) : M (List Syl) := do
  let p ← spanXl k 2 va n
  p.read k

end Sys2Proof.Machine
end

