-- ==== Sys2Proof/Machine/Decimal.lean ====
section
/-! DEFINITION. Packed decimal (06 R180-R210): operands, rounding, results, and one meaning per instruction. -/

namespace Sys2Proof.Machine

/-! ## Rounding (R199) -/

/-- n / d rounded to an integer: 0 down, 1 half-up, 2 half-even. -/
def quotRound (mode n d : Nat) : Nat :=
  let q := n / d
  let r := n % d
  if mode = 0 then q
  else if 2 * r < d then q
  else if d < 2 * r then q + 1
  else if mode = 1 || q % 2 = 1 then q + 1 else q

/-- The exact magnitude n / d rounded by a rule, and whether that changed it. -/
def rndQ (rule : Word) (n d : Nat) : Nat × Bool :=
  let q := match fld rule 1 2 with
    | 0 => quotRound 0 n d
    | 1 => quotRound 1 n d
    | 2 => quotRound 2 n d
    | _ => let inc := fld rule 8 17; quotRound (if kbit rule 3 then 2 else 1) n (d * inc) * inc
  (q, q * d != n)

/-- A magnitude with a sign. -/
def withSign (neg : Bool) (m : Nat) : Int := if neg then -(m : Int) else m

/-- rnd(v, k). -/
def rnd (rule : Word) (v : Int) (k : Nat) : Int × Bool :=
  let r := rndQ rule v.natAbs (10 ^ k)
  (withSign (decide (v < 0)) r.1, r.2)

/-! ## Operands and results -/

def decData {α : Type} (faddr : Nat) : M α := raise 7 1 0 faddr
def decSpec {α : Type} : M α := raise 7 2 0 0

/-- The value of a packed operand (R62). Each operand is read and checked before the next, so that bad data in A comes before
poison in B (DESIGN CHOICE, log 87). -/
def packedIn (k : Nat) (p : Span) : M Int := do
  let l ← p.read k
  let o := l.map octet
  match packedBad o 0 with
  | some i => decData ((p.va + i) % w36)
  | none => pure (packedVal o)

/-- The value of a zoned operand (R65). -/
def zonedIn (k : Nat) (p : Span) : M Int := do
  let l ← p.read k
  let o := l.map octet
  match zonedBad o 0 with
  | some i => decData ((p.va + i) % w36)
  | none => pure (zonedVal o)

/-- The value of a packed pair; FADDR of bad data is 0. -/
def pairIn (k : Nat) (r : Reg) : M Int := do
  let v ← rP k r
  match packedBad (pairOctets v) 0 with
  | some _ => decData 0
  | none => pure (packedVal (pairOctets v))

def addrOf (k : Nat) (r : Reg) : M Nat := do return (← rG k r).toNat

/-- The rounding rule that DRS names, when it is valid (R188 step 4). -/
def ruleM (k : Nat) : M Word := do
  let u ← getD' k
  let s ← get
  match tfind s.tabs.rules (drsRULE u.drs) with
  | some w => pure w
  | none => decSpec

def scaleM (k : Nat) : M Nat := do return drsSCALE (← getD' k).drs

/-- Held divide state goes when another decimal instruction executes (R205) (DEDUCED, log 33). -/
def dropHeld (k : Nat) : M Unit := setD k (fun u => { u with held := none })

/-- R190, R191 and R195 on a result for `digits` digits: the value to write. -/
def decOut (k digits : Nat) (v : Int) (inexact : Bool) : M Int := do
  let x ← ctxM k
  let ovf := decOverflows v.natAbs digits
  if ovf && stDOVT x.status then raise 7 4 0 0
  let w := withSign (decide (v < 0)) (v.natAbs % 10 ^ digits)
  setD k (fun u =>
    let d := setDINX u.drs inexact
    { u with drs := if ovf then setLRES (setDOV d) 3 else setLRES d (lresOf w) })
  pure w

/-- Writes a packed result of `n` syllables. -/
def packedOut (k : Nat) (p : Span) (n : Nat) (v : Int) (inexact : Bool) : M Unit := do
  p.ready k
  let w ← decOut k (2 * n - 1) v inexact
  p.writeOctets k (packedOf n w.natAbs (decide (w < 0)))

/-- Writes a zoned result of `n` syllables; `uns` is the unsigned form, whose last zone is 0xF even where an overflow leaves
zero digits (DESIGN CHOICE, log 86). -/
def zonedOut (k : Nat) (p : Span) (n : Nat) (v : Int) (uns : Bool) : M Unit := do
  p.ready k
  let w ← decOut k n v false
  p.writeOctets k (zonedOf n w.natAbs (if uns then 15 else if w < 0 then 13 else 12))

/-- Syllables of a length field. -/
def lenOf (l : BitVec 6) : Nat := l.toNat + 1
/-- A packed length (R126). -/
def needPacked (l : BitVec 6) : M Unit := if 32 ≤ l.toNat then illegal else pure ()
/-- A zoned length (R126). -/
def needZoned (l : BitVec 6) : M Unit := if 63 ≤ l.toNat then illegal else pure ()

def ceil16 (d : Nat) : Nat := (d + 15) / 16
def maxDigits (la lb : BitVec 6) : Nat := if lb ≤ la then 2 * lenOf la - 1 else 2 * lenOf lb - 1

/-- The first steps of a DOP with two memory operands: encoding, then translation of A and of B. -/
def twoSpans (k : Nat) (ra rb : Reg) (la lb : BitVec 6) (rdA wrA : Bool) : M (Span × Span) := do
  needPacked la
  needPacked lb
  let va ← addrOf k ra
  let vb ← addrOf k rb
  ownD k
  let pa ← if rdA && wrA then spanRw k va (lenOf la) else spanXl k (if wrA then 3 else 2) va (lenOf la)
  let pb ← spanXl k 2 vb (lenOf lb)
  pure (pa, pb)

/-! ## DOP (R184) -/

/-- DADD and DSUB. -/
def decSum (a : Issue) (i : Instr) (ra rb : Reg) (la lb : BitVec 6) (f : Int → Int → Int) (s : State) : Out :=
  instr a i 4 (seq (do
    let k := a.core.val
    let p ← twoSpans k ra rb la lb true true
    let x ← packedIn k p.1
    let y ← packedIn k p.2
    packedOut k p.1 (lenOf la) (f x y) false
    dropHeld k
    tick k (2 + ceil16 (maxDigits la lb)))) s

def execDadd (a : Issue) (ra rb : Reg) (la lb : BitVec 6) (s : State) : Out := decSum a (.dadd a ra rb la lb) ra rb la lb (· + ·) s
def execDsub (a : Issue) (ra rb : Reg) (la lb : BitVec 6) (s : State) : Out := decSum a (.dsub a ra rb la lb) ra rb la lb (· - ·) s

def execDzap (a : Issue) (ra rb : Reg) (la lb : BitVec 6) (s : State) : Out :=
  instr a (.dzap a ra rb la lb) 4 (seq (do
    let k := a.core.val
    let p ← twoSpans k ra rb la lb false true
    let y ← packedIn k p.2
    packedOut k p.1 (lenOf la) y false
    dropHeld k
    tick k (2 + ceil16 (maxDigits la lb)))) s

def execDcmp (a : Issue) (ra rb : Reg) (la lb : BitVec 6) (s : State) : Out :=
  instr a (.dcmp a ra rb la lb) 4 (seq (do
    let k := a.core.val
    let p ← twoSpans k ra rb la lb true false
    let x ← packedIn k p.1
    let y ← packedIn k p.2
    wG k 1 (cmpWord x y)
    dropHeld k
    tick k (2 + ceil16 (maxDigits la lb)))) s

/-- The destination of a microcoded instruction with operand A at G[ra] (R326). -/
def decDst (k : Nat) (ra : Reg) (la : BitVec 6) (s : Sys) : List (Nat × Nat) :=
  [(((s.ctx k).rdG ra).toNat, lenOf la)]

/-- An instruction of the microcode. -/
def micro (a : Issue) (i : Instr) (dst : Sys → List (Nat × Nat)) (body : M Next) (s : State) : Out :=
  onSys (insn a i 4 true (some (microDst dst)) body) s

def mulDecCycles (base : Nat) (la lb : BitVec 6) (y : Int) : Nat :=
  base + 2 * sigDigits y.natAbs + ceil16 (2 * lenOf la - 1 + (2 * lenOf lb - 1))

def execDmul (a : Issue) (ra rb : Reg) (la lb : BitVec 6) (s : State) : Out :=
  micro a (.dmul a ra rb la lb) (decDst a.core ra la) (seq (do
    let k := a.core.val
    let p ← twoSpans k ra rb la lb true true
    let x ← packedIn k p.1
    let y ← packedIn k p.2
    packedOut k p.1 (lenOf la) (x * y) false
    dropHeld k
    tick k (mulDecCycles 4 la lb y))) s

def execDmulr (a : Issue) (ra rb : Reg) (la lb : BitVec 6) (s : State) : Out :=
  micro a (.dmulr a ra rb la lb) (decDst a.core ra la) (seq (do
    let k := a.core.val
    let p ← twoSpans k ra rb la lb true true
    let x ← packedIn k p.1
    let y ← packedIn k p.2
    let r ← ruleM k
    let sc ← scaleM k
    let v := rnd r (x * y) sc
    packedOut k p.1 (lenOf la) v.1 v.2
    dropHeld k
    tick k (mulDecCycles 6 la lb y))) s

/-! ### Divides (R201-R206) -/

inductive DivFn where
  | div | divr | rem
  deriving DecidableEq, Repr

def DivFn.code : DivFn → Nat
  | .div => 6
  | .divr => 7
  | .rem => 8

/-- The exact result of a divide and whether it is inexact. -/
def divResult (fn : DivFn) (rule : Word) (sc : Nat) (x y : Int) : Int × Bool :=
  let n := x.natAbs * 10 ^ sc
  let d := y.natAbs
  let neg := decide (x < 0) != decide (y < 0)
  match fn with
  | .div => (withSign neg (n / d), n % d != 0)
  | .divr => let r := rndQ rule n d; (withSign neg r.1, r.2)
  | .rem => (withSign (decide (x < 0)) (n % d), n % d != 0)

/-- Quotient positions (R201). -/
def divPositions (sc : Nat) (x y : Int) : Nat :=
  let n := sigDigits x.natAbs + sc + 1 - sigDigits y.natAbs
  if n = 0 then 1 else n

/-- The progress word (R203). -/
def progressWord (done q : Nat) : Word := mkw 36 [(0, 1), (15, done), (23, q)]

/-- The held state's tag names this instruction and G1 is its progress word (R204) (DEDUCED, log 33). -/
def HeldDiv.matches (h : HeldDiv) (x : Ctx) (fn : DivFn) (ga gb : Word) (la lb : BitVec 6) (drs : Word) : Bool :=
  kbit (x.rdG 1) 0 && h.word = x.rdG 1 && h.pc = x.pc && h.ga = ga && h.gb = gb && h.fn = fn.code &&
    h.la = la.toNat && h.lb = lb.toNat && h.scale = drsSCALE drs && h.rule = drsRULE drs

/-- DIVD, REMD and DIVR. A trapped overflow undoes all but G1 := 0 and the end of the held state, which stay also where an interrupt
comes first and the instruction runs again (R205, R312) (DESIGN CHOICE, log 33). -/
def divideM (a : Issue) (fn : DivFn) (ra rb : Reg) (la lb : BitVec 6) : M Unit := do
  let k := a.core.val
  needPacked la
  needPacked lb
  ownD k
  let s0 ← get
  let x ← ctxM k
  let ga := x.rdG ra
  let gb := x.rdG rb
  let pa ← spanRw k ga.toNat (lenOf la)
  let pb ← spanXl k 2 gb.toNat (lenOf lb)
  let u ← getD' k
  let sc := drsSCALE u.drs
  let held := match u.held with
    | some h => if h.matches x fn ga gb la lb u.drs then some h else none
    | none => none
  let v ← match held with
    | some h => pure (h.a, h.b)
    | none => do
      let vx ← packedIn k pa
      let vy ← packedIn k pb
      pure (vx, vy)
  let rule ← if fn = .divr then ruleM k else pure 0
  if v.2 = 0 then raise 7 3 0 0
  let q := divPositions sc v.1 v.2
  let done := match held with
    | some h => h.qdone
    | none => 0
  let stop := done + 16 * a.irqAt
  let halt ← if a.irqAt != 0 && stop < q then safePoint a a.irqAt else pure none
  if let some st := halt then
    let w := progressWord stop q
    setD k (fun u => { u with held := some { pc := x.pc, ga := ga, gb := gb, fn := fn.code, la := la.toNat,
                                             lb := lb.toNat, scale := sc, rule := drsRULE u.drs, qdone := stop,
                                             qtot := q, a := v.1, b := v.2, word := w } })
    wG k 1 w
    tick k (6 + 3 * (stop - done))
    throw st
  let r := divResult fn rule sc v.1 v.2
  if decOverflows r.1.natAbs (2 * lenOf la - 1) && stDOVT x.status then
    upd (fun s => Sys.undo k s0 s)
    wG k 1 0
    dropHeld k
    throw (.exc { cls := 7, code := 4 } true)
  packedOut k pa (lenOf la) r.1 r.2
  wG k 1 0
  dropHeld k
  tick k (6 + 3 * (q - done))

def execDdiv (a : Issue) (ra rb : Reg) (la lb : BitVec 6) (s : State) : Out :=
  micro a (.ddiv a ra rb la lb) (decDst a.core ra la) (seq (divideM a .div ra rb la lb)) s
def execDdivr (a : Issue) (ra rb : Reg) (la lb : BitVec 6) (s : State) : Out :=
  micro a (.ddivr a ra rb la lb) (decDst a.core ra la) (seq (divideM a .divr ra rb la lb)) s
def execDrem (a : Issue) (ra rb : Reg) (la lb : BitVec 6) (s : State) : Out :=
  micro a (.drem a ra rb la lb) (decDst a.core ra la) (seq (divideM a .rem ra rb la lb)) s

/-- Operand A alone. -/
def oneSpan (k : Nat) (ra : Reg) (la : BitVec 6) (acc : Nat) : M Span := do
  needPacked la
  let va ← addrOf k ra
  ownD k
  spanXl k acc va (lenOf la)

def execDtst (a : Issue) (ra : Reg) (la : BitVec 6) (s : State) : Out :=
  instr a (.dtst a ra la) 4 (seq (do
    let k := a.core.val
    let p ← oneSpan k ra la 2
    let x ← packedIn k p
    wG k 1 (cmpWord x 0)
    dropHeld k
    tick k (2 + ceil16 (2 * lenOf la - 1)))) s

/-! ## DCV (R185) -/

def execPack (a : Issue) (ra rb : Reg) (la lb : BitVec 6) (s : State) : Out :=
  instr a (.pack a ra rb la lb) 4 (seq (do
    let k := a.core.val
    needPacked la
    needZoned lb
    let va ← addrOf k ra
    let vb ← addrOf k rb
    ownD k
    let pa ← spanXl k 3 va (lenOf la)
    let pb ← spanXl k 2 vb (lenOf lb)
    let y ← zonedIn k pb
    packedOut k pa (lenOf la) y false
    dropHeld k
    tick k (2 + ceil16 (max (2 * lenOf la - 1) (lenOf lb))))) s

/-- UNPK and UNPKU. -/
def unpack (a : Issue) (i : Instr) (uns : Bool) (ra rb : Reg) (la lb : BitVec 6) (s : State) : Out :=
  instr a i 4 (seq (do
    let k := a.core.val
    needZoned la
    needPacked lb
    let va ← addrOf k ra
    let vb ← addrOf k rb
    ownD k
    let pa ← spanXl k 3 va (lenOf la)
    let pb ← spanXl k 2 vb (lenOf lb)
    let y ← packedIn k pb
    zonedOut k pa (lenOf la) (if uns then (y.natAbs : Int) else y) uns
    dropHeld k
    tick k (2 + ceil16 (max (lenOf la) (2 * lenOf lb - 1))))) s

def execUnpk (a : Issue) (ra rb : Reg) (la lb : BitVec 6) (s : State) : Out := unpack a (.unpk a ra rb la lb) false ra rb la lb s
def execUnpku (a : Issue) (ra rb : Reg) (la lb : BitVec 6) (s : State) : Out := unpack a (.unpku a ra rb la lb) true ra rb la lb s

def execDsr (a : Issue) (ra rb : Reg) (la : BitVec 6) (s : State) : Out :=
  instr a (.dsr a ra rb la) 4 (seq (do
    let k := a.core.val
    needPacked la
    let va ← addrOf k ra
    ownD k
    let p ← spanRw k va (lenOf la)
    let g ← rG k rb
    let x ← packedIn k p
    let n := sgn g
    if n < -63 || 63 < n then decSpec
    let v ← if n < 0 then do
        let r ← ruleM k
        pure (rnd r x n.natAbs)
      else pure (x * 10 ^ n.toNat, false)
    packedOut k p (lenOf la) v.1 v.2
    dropHeld k
    tick k (3 + ceil16 (2 * lenOf la - 1)))) s

/-- CVPB: the value modulo 2^72 when it overflows under DOVT = 0 (R191). -/
def execCvpb (a : Issue) (ra rb : Reg) (la : BitVec 6) (s : State) : Out :=
  instr a (.cvpb a ra rb la) 4 (seq (do
    let k := a.core.val
    needPacked la
    needEven rb
    let p ← oneSpan k ra la 2
    let x ← packedIn k p
    let c ← ctxM k
    let ovf := !fitsS 72 x
    if ovf && stDOVT c.status then raise 7 4 0 0
    setD k (fun u => { u with drs := if ovf then setLRES (setDOV u.drs) 3 else setLRES u.drs (lresOf x), held := none })
    wP k rb (BitVec.ofInt 72 x)
    tick k (4 + (2 * lenOf la - 1 + 3) / 4))) s

def execCvbp (a : Issue) (ra rb : Reg) (la : BitVec 6) (s : State) : Out :=
  instr a (.cvbp a ra rb la) 4 (seq (do
    let k := a.core.val
    needPacked la
    needEven rb
    let p ← oneSpan k ra la 3
    let v ← rP k rb
    packedOut k p (lenOf la) (sgn v) false
    dropHeld k
    tick k (4 + (2 * lenOf la - 1 + 3) / 4))) s

def execDlda (a : Issue) (ra : Reg) (la : BitVec 6) (s : State) : Out :=
  instr a (.dlda a ra la) 4 (seq (do
    let k := a.core.val
    let p ← oneSpan k ra la 2
    let x ← packedIn k p
    if decOverflows x.natAbs 31 then decSpec
    setD k (fun u => { u with dacc := x, drs := setLRES u.drs (lresOf x), held := none })
    tick k (2 + ceil16 (2 * lenOf la - 1)))) s

def execDsta (a : Issue) (ra : Reg) (la : BitVec 6) (s : State) : Out :=
  instr a (.dsta a ra la) 4 (seq (do
    let k := a.core.val
    let p ← oneSpan k ra la 3
    let r ← ruleM k
    let sc ← scaleM k
    let u ← getD' k
    let v := rnd r u.dacc sc
    packedOut k p (lenOf la) v.1 v.2
    dropHeld k
    tick k 6)) s

def execDclra (a : Issue) (s : State) : Out :=
  instr a (.dclra a) 4 (seq (do
    ownD a.core
    setD a.core (fun u => { u with dacc := 0, held := none })
    tick a.core 1)) s

/-! ## The pair forms (R120, R183) -/

def pairSum (a : Issue) (i : Instr) (rd rs : Reg) (f : Int → Int → Int) (s : State) : Out :=
  instr a i 2 (seq (do
    let k := a.core.val
    needEven rd
    needEven rs
    ownD k
    let x ← pairIn k rd
    let y ← pairIn k rs
    let w ← decOut k 15 (f x y) false
    wP k rd (pairOf (packedOf 8 w.natAbs (decide (w < 0))))
    dropHeld k
    tick k 3)) s

def execDaddr (a : Issue) (rd rs : Reg) (s : State) : Out := pairSum a (.daddr a rd rs) rd rs (· + ·) s
def execDsubr (a : Issue) (rd rs : Reg) (s : State) : Out := pairSum a (.dsubr a rd rs) rd rs (· - ·) s

/-! ## DMAC (R207, R208) -/

def execDmac (a : Issue) (ra rb : Reg) (la lb : BitVec 6) (neg inc : Bool) (s : State) : Out :=
  instr a (.dmac a ra rb la lb neg inc) 4 (seq (do
    let k := a.core.val
    if 8 ≤ la.toNat || 8 ≤ lb.toNat then illegal
    let p ← twoSpans k ra rb la lb true false
    let x ← packedIn k p.1
    let y ← packedIn k p.2
    let u ← getD' k
    let w ← decOut k 31 (u.dacc + (if neg then -(x * y) else x * y)) false
    setD k (fun u => { u with dacc := w, held := none })
    if inc then
      let ga ← rG k ra
      let gb ← rG k rb
      if rb != ra then wG k rb (gb + BitVec.ofNat 36 (lenOf lb))
      wG k ra (ga + BitVec.ofNat 36 (lenOf la)))) s

end Sys2Proof.Machine
end

