-- ==== Sys2Proof/Machine/DmaExec.lean ====
section
/-! DEFINITION. The commands of the DMA engines (15 R472-R501). -/

namespace Sys2Proof.Machine

/-- A write of DM_CCTL with ARM = 1: DIS acts first (R495-R498). -/
def execDmaArm (q : Quad) (ch : Chan) (dis : Bool) (s : State) : Out :=
  onSys (fun s => ((if dis then s.dmaDisable q ch else s.dmaEnable q ch) : Sys).dmaArm q ch) s

def execChannelDisable (q : Quad) (ch : Chan) (s : State) : Out := onSys (fun s => s.dmaDisable q ch) s
def execChannelEnable (q : Quad) (ch : Chan) (s : State) : Out := onSys (fun s => s.dmaEnable q ch) s
def execListEntryRead (q : Quad) (ch : Chan) (s : State) : Out := onSys (fun s => s.listEntry q ch) s
def execDmaTransferStep (q : Quad) (ch : Chan) (s : State) : Out := onSys (fun s => (s.dmaStep q ch).drainAll) s
def execReadBack (q : Quad) (ch : Chan) (s : State) : Out := onSys (fun s => (s.dmaReadBack q ch).drainAll) s
def execListCompletion (q : Quad) (ch : Chan) (s : State) : Out := onSys (fun s => s.dmaComplete q ch) s

/-- DM_ESTAT.KIND. -/
def busErrKind : BusErr → Nat
  | .poison => 1
  | .status => 2
  | .timeout => 3
  | .buffer => 4

/-- The side that a bus error captures: module memory for poison, host memory for a completion; for an engine buffer the
spec does not say which read met it, so a free value (DESIGN CHOICE, log 49). -/
def Sys.busErrorAt (q : Nat) (kind : BusErr) (addr : Nat) (s : Sys) : Sys :=
  match kind with
  | .poison => s.busError q 1 false (addr / 64)
  | .buffer =>
    let f := s.fresh 1
    f.2.busError q 4 (f.1 = 1) (addr / 64)
  | k => s.busError q (busErrKind k) true (addr / 64)

def execBusError (q : Quad) (kind : BusErr) (addr : Nat) (s : State) : Out := onSys (fun s => s.busErrorAt q kind addr) s
def execHaltClear (q : Quad) (s : State) : Out := onSys (fun s => s.haltClear q) s

end Sys2Proof.Machine
end

