-- ==== Sys2Proof/Machine/FloatOps.lean ====
section
/-! DEFINITION. Binary floating point as functions of bits (02 R68-R72, 05 R168-R174): formats, exact values, rounding,
the operations and the conversions with the IEEE 754-2019 flags they signal. -/

namespace Sys2Proof.Machine

/-- A binary format: exponent and fraction widths (R68, R70). -/
structure Fmt where
  e : Nat
  f : Nat
  deriving DecidableEq, Repr

def shortF : Fmt := { e := 8, f := 27 }
def longF : Fmt := { e := 11, f := 60 }
def binary64 : Fmt := { e := 11, f := 52 }

def Fmt.bias (t : Fmt) : Nat := 2 ^ (t.e - 1) - 1
def Fmt.width (t : Fmt) : Nat := 1 + t.e + t.f
def Fmt.emax (t : Fmt) : Nat := 2 ^ t.e - 1

/-- What a bit pattern stands for: a finite value is ±m × 2^x. -/
inductive FVal where
  | nan (neg : Bool) (frac : Nat)
  | inf (neg : Bool)
  | fin (neg : Bool) (m : Nat) (x : Int)
  deriving DecidableEq, Repr

/-- Bits of a format from sign, exponent field and fraction. -/
def Fmt.pack (t : Fmt) (neg : Bool) (ex fr : Nat) : Nat := neg.toNat * 2 ^ (t.e + t.f) + ex * 2 ^ t.f + fr

def Fmt.neg (t : Fmt) (b : Nat) : Bool := b / 2 ^ (t.e + t.f) % 2 = 1
def Fmt.expo (t : Fmt) (b : Nat) : Nat := b / 2 ^ t.f % 2 ^ t.e
def Fmt.frac (t : Fmt) (b : Nat) : Nat := b % 2 ^ t.f

def Fmt.val (t : Fmt) (b : Nat) : FVal :=
  let n := t.neg b
  let ex := t.expo b
  let fr := t.frac b
  if ex = t.emax then (if fr = 0 then .inf n else .nan n fr)
  else if ex = 0 then .fin n fr (1 - (t.bias : Int) - t.f)
  else .fin n (2 ^ t.f + fr) ((ex : Int) - t.bias - t.f)

def Fmt.isSub (t : Fmt) (b : Nat) : Bool := t.expo b = 0 && t.frac b != 0
def Fmt.isNan (t : Fmt) (b : Nat) : Bool := t.expo b = t.emax && t.frac b != 0
/-- A signalling NaN: its quiet-NaN bit is clear (R69). -/
def Fmt.isSig (t : Fmt) (b : Nat) : Bool := t.isNan b && t.frac b / 2 ^ (t.f - 1) = 0
def Fmt.zero (t : Fmt) (neg : Bool) : Nat := t.pack neg 0 0
def Fmt.inf (t : Fmt) (neg : Bool) : Nat := t.pack neg t.emax 0
/-- The default NaN (R174). -/
def Fmt.defNan (t : Fmt) : Nat := t.pack false t.emax (2 ^ (t.f - 1))
def Fmt.quiet (t : Fmt) (b : Nat) : Nat := if t.frac b / 2 ^ (t.f - 1) = 0 then b + 2 ^ (t.f - 1) else b

/-! ## Rounding (R95) -/

/-- Whether a magnitude is rounded up: `odd` its last kept bit, `half` compares what is dropped with half a unit
(0 zero, 1 below, 2 equal, 3 above). FRM: 0 ties to even, 1 ties away, 2 toward zero, 3 toward +∞, 4 toward −∞. -/
def roundUp (frm : Nat) (neg odd : Bool) (half : Nat) : Bool :=
  match frm with
  | 0 => half = 3 || (half = 2 && odd)
  | 1 => half = 2 || half = 3
  | 2 => false
  | 3 => half != 0 && !neg
  | _ => half != 0 && neg

/-- `m` with `sh` bits dropped; `sticky` says that the exact magnitude lies above `m`. The answer: the rounded number
and whether it differs from the exact one. -/
def roundShift (frm : Nat) (neg : Bool) (m sh : Nat) (sticky : Bool) : Nat × Bool :=
  let q := m / 2 ^ sh
  let r := m % 2 ^ sh
  let half := if sh = 0 then (if sticky then 1 else 0)
    else if 2 * r < 2 ^ sh then (if r = 0 && !sticky then 0 else 1)
    else if 2 * r = 2 ^ sh && !sticky then 2 else 3
  (if roundUp frm neg (q % 2 = 1) half then q + 1 else q, half != 0)

/-- Rounds ±m × 2^x to a multiple of 2^q. -/
def roundAt (frm : Nat) (neg : Bool) (m : Nat) (x q : Int) (sticky : Bool) : Nat × Bool :=
  if q ≤ x then (m * 2 ^ (x - q).toNat, sticky) else roundShift frm neg m (q - x).toNat sticky

/-- A rounded result: its bits, the flags, and whether it is a nonzero value below the smallest normal. -/
structure FRes where
  bits : Nat
  fl   : FFlags := {}
  sub  : Bool := false
  deriving DecidableEq, Repr

/-- Rounds the exact ±m × 2^x (above it when `sticky`) to the format, tininess after rounding (R171) (DEDUCED, log 31). -/
def Fmt.round (t : Fmt) (frm : Nat) (neg : Bool) (m : Nat) (x : Int) (sticky : Bool) : FRes :=
  if m = 0 then { bits := t.zero neg }
  else
    let n : Int := bitLen 2400 m
    let emin : Int := 1 - t.bias
    let qn := x + n - (t.f + 1)
    let q := if qn < emin - t.f then emin - t.f else qn
    let r := roundAt frm neg m x q sticky
    let u := roundAt frm neg m x qn sticky
    let tiny := decide (qn + bitLen 2400 u.1 - 1 < emin)
    let ex := q + t.f + t.bias
    if r.1 < 2 ^ t.f then
      { bits := t.pack neg 0 r.1, fl := { u := tiny && r.2, x := r.2 }, sub := r.1 != 0 }
    else
      let top := decide (2 ^ (t.f + 1) ≤ r.1)
      let ex := (if top then ex + 1 else ex).toNat
      let fr := if top then r.1 / 2 - 2 ^ t.f else r.1 - 2 ^ t.f
      if t.emax ≤ ex then
        let big := frm = 2 || (frm = 3 && neg) || (frm = 4 && !neg)
        { bits := if big then t.pack neg (t.emax - 1) (2 ^ t.f - 1) else t.inf neg, fl := { o := true, x := true } }
      else { bits := t.pack neg ex fr, fl := { u := tiny && r.2, x := r.2 } }

/-! ## Arithmetic (R168, R174) -/

def invalid (t : Fmt) : FRes := { bits := t.defNan, fl := { v := true } }

/-- The NaN rule of R174 for two operands; none when neither is a NaN. -/
def nan2 (t : Fmt) (a b : Nat) : Option FRes :=
  if t.isNan a then some { bits := t.quiet a, fl := { v := t.isSig a || t.isSig b } }
  else if t.isNan b then some { bits := t.quiet b, fl := { v := t.isSig b } }
  else none

/-- The sum of ±m × 2^x terms, exactly, as a signed multiple of 2^x. -/
def sumFin (an : Bool) (am : Nat) (ax : Int) (bn : Bool) (bm : Nat) (bx : Int) : Int × Int :=
  let x := if ax ≤ bx then ax else bx
  let va : Int := am * 2 ^ (ax - x).toNat
  let vb : Int := bm * 2 ^ (bx - x).toNat
  ((if an then -va else va) + (if bn then -vb else vb), x)

/-- a + b; an exact zero of opposite signs is −0 only toward −∞. -/
def fAdd (t : Fmt) (frm : Nat) (a b : Nat) : FRes :=
  match nan2 t a b with
  | some r => r
  | none =>
    match t.val a, t.val b with
    | .inf n, .inf m => if n = m then { bits := t.inf n } else invalid t
    | .inf n, _ => { bits := t.inf n }
    | _, .inf n => { bits := t.inf n }
    | .fin an am ax, .fin bn bm bx =>
      let r := sumFin an am ax bn bm bx
      if r.1 = 0 then
        { bits := t.zero (if am = 0 && bm = 0 && an = bn then an else frm = 4) }
      else t.round frm (decide (r.1 < 0)) r.1.natAbs r.2 false
    | _, _ => invalid t

def Fmt.flip (t : Fmt) (b : Nat) : Nat := if t.neg b then b - 2 ^ (t.e + t.f) else b + 2 ^ (t.e + t.f)

/-- a − b; a NaN operand keeps its own sign. -/
def fSub (t : Fmt) (frm : Nat) (a b : Nat) : FRes :=
  match nan2 t a b with
  | some r => r
  | none => fAdd t frm a (t.flip b)

def fMul (t : Fmt) (frm : Nat) (a b : Nat) : FRes :=
  match nan2 t a b with
  | some r => r
  | none =>
    let n := t.neg a != t.neg b
    match t.val a, t.val b with
    | .fin _ am ax, .fin _ bm bx => t.round frm n (am * bm) (ax + bx) false
    | .inf _, .fin _ m _ => if m = 0 then invalid t else { bits := t.inf n }
    | .fin _ m _, .inf _ => if m = 0 then invalid t else { bits := t.inf n }
    | _, _ => { bits := t.inf n }

def fDiv (t : Fmt) (frm : Nat) (a b : Nat) : FRes :=
  match nan2 t a b with
  | some r => r
  | none =>
    let n := t.neg a != t.neg b
    match t.val a, t.val b with
    | .fin _ am ax, .fin _ bm bx =>
      if bm = 0 then (if am = 0 then invalid t else { bits := t.inf n, fl := { z := true } })
      else
        let k := 2 * t.f + 8
        t.round frm n (am * 2 ^ k / bm) (ax - bx - k) (am * 2 ^ k % bm != 0)
    | .inf _, .inf _ => invalid t
    | .inf _, _ => { bits := t.inf n }
    | _, _ => { bits := t.zero n }

/-- Integer square root, bit by bit from bit `n` - 1 down. -/
def isqrtF (m : Nat) : Nat → Nat → Nat
  | 0, r => r
  | n + 1, r => let r' := r + 2 ^ n; isqrtF m n (if r' * r' ≤ m then r' else r)

def fSqrt (t : Fmt) (frm : Nat) (a : Nat) : FRes :=
  if t.isNan a then { bits := t.quiet a, fl := { v := t.isSig a } }
  else match t.val a with
    | .fin n m x =>
      if m = 0 then { bits := t.zero n }
      else if n then invalid t
      else
        let k := 2 * t.f + 8
        let m' := if (x - k) % 2 = 0 then m * 2 ^ k else m * 2 ^ (k + 1)
        let x' := if (x - k) % 2 = 0 then x - k else x - k - 1
        let r := isqrtF m' (2 * t.f + 8) 0
        t.round frm false r (x' / 2) (r * r != m')
    | .inf n => if n then invalid t else { bits := a }
    | _ => invalid t

/-- Order of two values that are no NaN: −1, 0, +1; the zeros are equal. -/
def fOrder (t : Fmt) (a b : Nat) : Int :=
  let key (v : Nat) : Int := let m : Int := v % 2 ^ (t.e + t.f); if t.neg v then -m else m
  if key a < key b then -1 else if key a = key b then 0 else 1

/-- Minimum (`mx` false) or maximum of IEEE 754-2019. -/
def fMinMax (t : Fmt) (mx : Bool) (a b : Nat) : FRes :=
  match nan2 t a b with
  | some r => r
  | none =>
    let o := fOrder t a b
    let lt := decide (o < 0) || (o = 0 && t.neg a && !t.neg b)
    { bits := if lt != mx then a else b }

/-- FCMP and, with `sigs`, FCMPS: the answer and the invalid flag. -/
def fCompare (t : Fmt) (sigs : Bool) (a b : Nat) : Word × FFlags :=
  if t.isNan a || t.isNan b then (2, { v := sigs || t.isSig a || t.isSig b })
  else (cmpWord (fOrder t a b) 0, {})

/-! ## Conversions (R169, R170) -/

/-- A finite value rounded to an integer: magnitude and whether it changed. -/
def toInt (frm : Nat) (n : Bool) (m : Nat) (x : Int) : Int × Bool :=
  let r := roundAt frm n m x 0 false
  (if n then -(r.1 : Int) else r.1, r.2)

def fRint (t : Fmt) (frm : Nat) (a : Nat) : FRes :=
  if t.isNan a then { bits := t.quiet a, fl := { v := t.isSig a } }
  else match t.val a with
    | .fin n m x =>
      let r := roundAt frm n m x 0 false
      let z := t.round frm n r.1 0 false
      { bits := z.bits, fl := { x := r.2 } }
    | _ => { bits := a }

/-- Float to a signed integer of `w` bits (R170). -/
def fToInt (t : Fmt) (frm w : Nat) (a : Nat) : Int × FFlags :=
  let hi : Int := 2 ^ (w - 1) - 1
  let lo : Int := -(2 ^ (w - 1))
  match t.val a with
  | .nan _ _ => (hi, { v := true })
  | .inf n => (if n then lo else hi, { v := true })
  | .fin n m x =>
    let r := toInt frm n m x
    if hi < r.1 then (hi, { v := true }) else if r.1 < lo then (lo, { v := true }) else (r.1, { x := r.2 })

def intToF (t : Fmt) (frm : Nat) (v : Int) : FRes := t.round frm (decide (v < 0)) v.natAbs 0 false

/-- A change of format. The payload of a NaN stays at the most significant end of the fraction (R71, R72; DEDUCED for
the short and long formats); `quieten` sets the quiet bit and signals a signalling NaN (DEDUCED, log 31). -/
def fConvert (s d : Fmt) (frm : Nat) (quieten : Bool) (a : Nat) : FRes :=
  if s.isNan a then
    let fr := if d.f < s.f then s.frac a / 2 ^ (s.f - d.f) else s.frac a * 2 ^ (d.f - s.f)
    let b := d.pack (s.neg a) d.emax fr
    { bits := if quieten then d.quiet b else b, fl := { v := quieten && s.isSig a } }
  else match s.val a with
    | .fin n m x => d.round frm n m x false
    | .inf n => { bits := d.inf n }
    | _ => invalid d

/-- Subnormal operands read as zeros of their own sign (R172). -/
def Fmt.flush (t : Fmt) (b : Nat) : Nat := if t.isSub b then t.zero (t.neg b) else b

/-- A result below the smallest normal under SUBN = 1 (R172). -/
def Fmt.flushRes (t : Fmt) (r : FRes) : FRes :=
  if r.sub then { bits := t.zero (t.neg r.bits), fl := { r.fl with u := true, x := true } } else r

end Sys2Proof.Machine
end

