-- ==== Sys2Proof/Machine/Float.lean ====
section
/-! DEFINITION. The float instructions (05 R166-R175): registers, the order of R171, and one meaning per instruction. -/

namespace Sys2Proof.Machine

/-! ## Float registers (R166) -/

def rFR (k : Nat) (r : Reg) : M DWord := do return tget 0 (← getF k).fr r
def wFR (k : Nat) (r : Reg) (v : DWord) : M Unit := setF k (fun u => { u with fr := tset u.fr r v })

/-- A float operand: bits 0-35, or the whole register. -/
def rFV (k : Nat) (lg : Bool) (r : Reg) : M Nat := do
  let v ← rFR k r
  pure (if lg then v.toNat else (dw0 v).toNat)

/-- A float result: a short one clears bits 36-71. -/
def wFV (k : Nat) (lg : Bool) (r : Reg) (v : Nat) : M Unit :=
  wFR k r (if lg then BitVec.ofNat 72 v else mkd (BitVec.ofNat 36 v) 0)

def fmtOf (lg : Bool) : Fmt := if lg then longF else shortF

/-- Steps 3 to 5 of R171: `sub` says that the result is below the smallest normal and SUBN is 0. -/
def floatEnd (k : Nat) (fl : FFlags) (sub : Bool) (write : M Unit) : M Unit := do
  let x ← ctxM k
  if fsrTraps x.fsr fl then raise 6 3 0 0
  if sub then raise 6 4 0 0
  write
  modX k (fun x => { x with fsr := fsrOr x.fsr fl })

/-- Step 1 of R171 and R172: an operand as the operation reads it. -/
def floatArg (k : Nat) (t : Fmt) (b : Nat) : M Nat := do
  let x ← ctxM k
  if !stSUBN x.status && t.isSub b then raise 6 4 0 0
  pure (t.flush b)

def frmM (k : Nat) : M Nat := do return stFRM (← ctxM k).status

/-- The result of R171 in format `t`, under the subnormal choice. -/
def floatOut (k : Nat) (t : Fmt) (r : FRes) (write : Nat → M Unit) : M Unit := do
  let x ← ctxM k
  let r' := if stSUBN x.status then t.flushRes r else r
  floatEnd k r'.fl r'.sub (write r'.bits)

/-- A two-operand operation; `time` is the divider's, whose table lookup comes first (R165). -/
def fop2 (a : Issue) (i : Instr) (lg : Bool) (rd ra rb : Reg) (time : M Unit) (f : Fmt → Nat → Nat → Nat → FRes) (s : State) : Out :=
  instr a i 4 (seq (do
    needFR rd
    needFR ra
    needFR rb
    ownF a.core
    let t := fmtOf lg
    let va ← rFV a.core lg ra
    let vb ← rFV a.core lg rb
    let va ← floatArg a.core t va
    let vb ← floatArg a.core t vb
    let frm ← frmM a.core
    time
    floatOut a.core t (f t frm va vb) (wFV a.core lg rd))) s

/-- A one-operand operation. -/
def fop1 (a : Issue) (i : Instr) (lg : Bool) (rd ra : Reg) (time : M Unit) (f : Fmt → Nat → Nat → FRes) (s : State) : Out :=
  instr a i 4 (seq (do
    needFR rd
    needFR ra
    ownF a.core
    let t := fmtOf lg
    let va ← rFV a.core lg ra
    let va ← floatArg a.core t va
    let frm ← frmM a.core
    time
    floatOut a.core t (f t frm va) (wFV a.core lg rd))) s

def noTime : M Unit := pure ()

/-! ### FOPS and FOPL (R168) -/

def execFadd (a : Issue) (lg : Bool) (rd ra rb : Reg) (s : State) : Out := fop2 a (.fadd a lg rd ra rb) lg rd ra rb noTime fAdd s
def execFsub (a : Issue) (lg : Bool) (rd ra rb : Reg) (s : State) : Out := fop2 a (.fsub a lg rd ra rb) lg rd ra rb noTime fSub s
def execFmul (a : Issue) (lg : Bool) (rd ra rb : Reg) (s : State) : Out := fop2 a (.fmul a lg rd ra rb) lg rd ra rb noTime fMul s
def execFdiv (a : Issue) (lg : Bool) (rd ra rb : Reg) (s : State) : Out :=
  fop2 a (.fdiv a lg rd ra rb) lg rd ra rb (if lg then divider a 21 66 else divider a 14 33) fDiv s
def execFsqrt (a : Issue) (lg : Bool) (rd ra : Reg) (s : State) : Out :=
  fop1 a (.fsqrt a lg rd ra) lg rd ra (if lg then divider a 24 66 else divider a 16 33) fSqrt s
def execFmin (a : Issue) (lg : Bool) (rd ra rb : Reg) (s : State) : Out :=
  fop2 a (.fmin a lg rd ra rb) lg rd ra rb noTime (fun t _ x y => fMinMax t false x y) s
def execFmax (a : Issue) (lg : Bool) (rd ra rb : Reg) (s : State) : Out :=
  fop2 a (.fmax a lg rd ra rb) lg rd ra rb noTime (fun t _ x y => fMinMax t true x y) s
def execFrint (a : Issue) (lg : Bool) (rd ra : Reg) (s : State) : Out := fop1 a (.frint a lg rd ra) lg rd ra noTime fRint s

/-- FABS, FNEG and FMOV: the bits alone (R173). -/
def fbits (a : Issue) (i : Instr) (lg : Bool) (rd ra : Reg) (f : Fmt → Nat → Nat) (s : State) : Out :=
  instr a i 4 (seq (do
    needFR rd
    needFR ra
    ownF a.core
    let va ← rFV a.core lg ra
    wFV a.core lg rd (f (fmtOf lg) va))) s

def execFabs (a : Issue) (lg : Bool) (rd ra : Reg) (s : State) : Out :=
  fbits a (.fabs a lg rd ra) lg rd ra (fun t b => b % 2 ^ (t.e + t.f)) s
def execFneg (a : Issue) (lg : Bool) (rd ra : Reg) (s : State) : Out := fbits a (.fneg a lg rd ra) lg rd ra Fmt.flip s
def execFmov (a : Issue) (lg : Bool) (rd ra : Reg) (s : State) : Out := fbits a (.fmov a lg rd ra) lg rd ra (fun _ b => b) s

/-- FCMP and FCMPS, whose rd is a general register. -/
def fcompare (a : Issue) (i : Instr) (lg sigs : Bool) (rd ra rb : Reg) (s : State) : Out :=
  instr a i 4 (seq (do
    needFR ra
    needFR rb
    ownF a.core
    let t := fmtOf lg
    let va ← rFV a.core lg ra
    let vb ← rFV a.core lg rb
    let va ← floatArg a.core t va
    let vb ← floatArg a.core t vb
    let r := fCompare t sigs va vb
    floatEnd a.core r.2 false (wG a.core rd r.1))) s

def execFcmp (a : Issue) (lg : Bool) (rd ra rb : Reg) (s : State) : Out := fcompare a (.fcmp a lg rd ra rb) lg false rd ra rb s
def execFcmps (a : Issue) (lg : Bool) (rd ra rb : Reg) (s : State) : Out := fcompare a (.fcmps a lg rd ra rb) lg true rd ra rb s

/-! ### FCVT (R169) -/

/-- Between the two float formats. -/
def fformat (a : Issue) (i : Instr) (fromL : Bool) (rd ra : Reg) (s : State) : Out :=
  instr a i 4 (seq (do
    needFR rd
    needFR ra
    ownF a.core
    let va ← rFV a.core fromL ra
    let va ← floatArg a.core (fmtOf fromL) va
    let frm ← frmM a.core
    floatOut a.core (fmtOf (!fromL)) (fConvert (fmtOf fromL) (fmtOf (!fromL)) frm true va) (wFV a.core (!fromL) rd))) s

def execFcvtsl (a : Issue) (rd ra : Reg) (s : State) : Out := fformat a (.fcvtsl a rd ra) false rd ra s
def execFcvtls (a : Issue) (rd ra : Reg) (s : State) : Out := fformat a (.fcvtls a rd ra) true rd ra s

/-- From a signed integer of one or two words. -/
def ffromInt (a : Issue) (i : Instr) (wide lg : Bool) (rd ra : Reg) (s : State) : Out :=
  instr a i 4 (seq (do
    if wide then needEven ra
    needFR rd
    ownF a.core
    let v ← rI a.core wide true ra
    let frm ← frmM a.core
    floatOut a.core (fmtOf lg) (intToF (fmtOf lg) frm v) (wFV a.core lg rd))) s

def execFcvtws (a : Issue) (rd ra : Reg) (s : State) : Out := ffromInt a (.fcvtws a rd ra) false false rd ra s
def execFcvtwl (a : Issue) (rd ra : Reg) (s : State) : Out := ffromInt a (.fcvtwl a rd ra) false true rd ra s
def execFcvtdl (a : Issue) (rd ra : Reg) (s : State) : Out := ffromInt a (.fcvtdl a rd ra) true true rd ra s

/-- To a signed integer of one or two words, by FRM or toward zero. -/
def ftoInt (a : Issue) (i : Instr) (lg wide trunc : Bool) (rd ra : Reg) (s : State) : Out :=
  instr a i 4 (seq (do
    if wide then needEven rd
    needFR ra
    ownF a.core
    let t := fmtOf lg
    let va ← rFV a.core lg ra
    let va ← floatArg a.core t va
    let frm ← frmM a.core
    let r := fToInt t (if trunc then 2 else frm) (if wide then 72 else 36) va
    floatEnd a.core r.2 false (wI a.core wide rd r.1))) s

def execFcvtsw (a : Issue) (rd ra : Reg) (s : State) : Out := ftoInt a (.fcvtsw a rd ra) false false false rd ra s
def execFcvtswz (a : Issue) (rd ra : Reg) (s : State) : Out := ftoInt a (.fcvtswz a rd ra) false false true rd ra s
def execFcvtlw (a : Issue) (rd ra : Reg) (s : State) : Out := ftoInt a (.fcvtlw a rd ra) true false false rd ra s
def execFcvtlwz (a : Issue) (rd ra : Reg) (s : State) : Out := ftoInt a (.fcvtlwz a rd ra) true false true rd ra s
def execFcvtld (a : Issue) (rd ra : Reg) (s : State) : Out := ftoInt a (.fcvtld a rd ra) true true false rd ra s
def execFcvtldz (a : Issue) (rd ra : Reg) (s : State) : Out := ftoInt a (.fcvtldz a rd ra) true true true rd ra s

/-! ### Interchange with binary64 (R70-R72) -/

/-- The 64-bit value whose octets, most significant first, are the octets of the 8 syllables (DEDUCED, log 31). -/
def octetForm (d : DWord) : Nat := (sylsD d).foldl (fun n x => n * 256 + (octet x).toNat) 0

/-- The octet form of a 64-bit value, marks clear (DEDUCED, log 31). -/
def ofOctets : Nat → Nat → List Octet
  | 0, _ => []
  | n + 1, v => ofOctets n (v / 256) ++ [BitVec.ofNat 8 v]

/-- F64TOL (R71): exact for every value, and a NaN keeps its quiet bit. -/
def execF64tol (a : Issue) (rd ra : Reg) (s : State) : Out :=
  instr a (.f64tol a rd ra) 4 (seq (do
    needEven ra
    needFR rd
    ownF a.core
    let v ← rP a.core ra
    let r := fConvert binary64 longF 0 false (octetForm v)
    floatEnd a.core r.fl false (wFV a.core true rd r.bits))) s

/-- LTOF64 (R72). -/
def execLtof64 (a : Issue) (rd ra : Reg) (s : State) : Out :=
  instr a (.ltof64 a rd ra) 4 (seq (do
    needEven rd
    needFR ra
    ownF a.core
    let v ← rFV a.core true ra
    let frm ← frmM a.core
    let r := fConvert longF binary64 frm true v
    floatEnd a.core r.fl false (wP a.core rd (pairOf (ofOctets 8 r.bits))))) s

/-! ### Bit copies -/

def execMvgs (a : Issue) (rd ra : Reg) (s : State) : Out :=
  instr a (.mvgs a rd ra) 4 (seq (do
    needFR rd
    ownF a.core
    let v ← rG a.core ra
    wFV a.core false rd v.toNat)) s

def execMvsg (a : Issue) (rd ra : Reg) (s : State) : Out :=
  instr a (.mvsg a rd ra) 4 (seq (do
    needFR ra
    ownF a.core
    let v ← rFR a.core ra
    wG a.core rd (dw0 v))) s

def execMvgl (a : Issue) (rd ra : Reg) (s : State) : Out :=
  instr a (.mvgl a rd ra) 4 (seq (do
    needEven ra
    needFR rd
    ownF a.core
    let v ← rP a.core ra
    wFR a.core rd v)) s

def execMvlg (a : Issue) (rd ra : Reg) (s : State) : Out :=
  instr a (.mvlg a rd ra) 4 (seq (do
    needEven rd
    needFR ra
    ownF a.core
    let v ← rFR a.core ra
    wP a.core rd v)) s

/-! ### FLD and FST (R166) -/

def execFld (a : Issue) (rd rb : Reg) (disp : BitVec 18) (s : State) : Out :=
  instr a (.fld a rd rb disp) 4 (seq (do
    needFR rd
    ownF a.core
    let b ← rG a.core rb
    let v ← loadD a.core (memAddr b disp.toInt)
    wFR a.core rd v)) s

def execFst (a : Issue) (rd rb : Reg) (disp : BitVec 18) (s : State) : Out :=
  instr a (.fst a rd rb disp) 4 (seq (do
    needFR rd
    ownF a.core
    let b ← rG a.core rb
    let v ← rFR a.core rd
    storeN a.core (memAddr b disp.toInt) (sylsD v))) s

end Sys2Proof.Machine
end

