-- ==== Sys2Proof/Machine/IntUnit.lean ====
section
/-! DEFINITION. Integer moves and arithmetic (04 R119, R120, R127; 05 R153-R156). -/

namespace Sys2Proof.Machine

/-- Length in syllables of a form. -/
def aluLen : AluForm → Nat
  | .short _ _ => 2
  | .iop _ _ _ => 4
  | .iopd _ _ _ => 4

/-- A shift count: bits 30-35 of a word, or bits 29-35 of word 1 of a pair (R120, R155). -/
def countOf {n : Nat} (b : BitVec n) : Nat := b.toNat % (if n = 72 then 128 else 64)

/-- A two-operand operation of either width in any form. -/
def aluBody (k : Nat) (f : AluForm) (op : (n : Nat) → BitVec n → BitVec n → BitVec n) : M Next := do
  match f with
  | .short rd rs =>
    let a ← rG k rd
    let b ← rG k rs
    wG k rd (op 36 a b)
  | .iop rd ra rb =>
    let a ← rG k ra
    let b ← rG k rb
    wG k rd (op 36 a b)
  | .iopd rd ra rb =>
    needEven rd
    needEven ra
    needEven rb
    let a ← rP k ra
    let b ← rP k rb
    wP k rd (op 72 a b)
  pure .seq

def alu (a : Issue) (i : Instr) (f : AluForm) (op : (n : Nat) → BitVec n → BitVec n → BitVec n) (s : State) : Out :=
  instr a i (aluLen f) (aluBody a.core f op) s

/-- The long form that a flag makes 72 bits wide. -/
def longForm (dbl : Bool) (rd ra rb : Reg) : AluForm := if dbl then .iopd rd ra rb else .iop rd ra rb

/-- An instruction that writes G[rd] from G[rs]. -/
def unaryW (a : Issue) (i : Instr) (len : Nat) (rd rs : Reg) (f : Word → Word) (s : State) : Out :=
  instr a i len (seq do
    let v ← rG a.core rs
    wG a.core rd (f v)) s

/-! ### The operations -/

def opAdd (n : Nat) (a b : BitVec n) : BitVec n := a + b
def opSub (n : Nat) (a b : BitVec n) : BitVec n := a - b
def opAnd (n : Nat) (a b : BitVec n) : BitVec n := a &&& b
def opOr (n : Nat) (a b : BitVec n) : BitVec n := a ||| b
def opXor (n : Nat) (a b : BitVec n) : BitVec n := a ^^^ b
def opAndn (n : Nat) (a b : BitVec n) : BitVec n := a &&& ~~~b
def opShl (n : Nat) (a b : BitVec n) : BitVec n := shl a (countOf b)
def opShr (n : Nat) (a b : BitVec n) : BitVec n := shr a (countOf b)
def opSar (n : Nat) (a b : BitVec n) : BitVec n := sar a (countOf b)
def opRol (n : Nat) (a b : BitVec n) : BitVec n := rol a (countOf b)
def opSlt (n : Nat) (a b : BitVec n) : BitVec n := if a.slt b then 1 else 0
def opSltu (n : Nat) (a b : BitVec n) : BitVec n := if a.ult b then 1 else 0
def opMin (n : Nat) (a b : BitVec n) : BitVec n := if b.slt a then b else a
def opMax (n : Nat) (a b : BitVec n) : BitVec n := if a.slt b then b else a
def opMinu (n : Nat) (a b : BitVec n) : BitVec n := if b.ult a then b else a
def opMaxu (n : Nat) (a b : BitVec n) : BitVec n := if a.ult b then b else a

/-! ### The instructions -/

/-- MOV (R120); the parcel of MOV G0, G0 is the zero parcel, which is illegal (R121). -/
def execMov (a : Issue) (rd rs : Reg) (s : State) : Out :=
  instr a (.mov a rd rs) 2 (seq do
    if rd = 0 && rs = 0 then illegal
    let v ← rG a.core rs
    wG a.core rd v) s

def execAdd (a : Issue) (f : AluForm) (s : State) : Out := alu a (.add a f) f opAdd s
def execSub (a : Issue) (f : AluForm) (s : State) : Out := alu a (.sub a f) f opSub s
def execAnd (a : Issue) (f : AluForm) (s : State) : Out := alu a (.and a f) f opAnd s
def execOr (a : Issue) (f : AluForm) (s : State) : Out := alu a (.or a f) f opOr s
def execXor (a : Issue) (f : AluForm) (s : State) : Out := alu a (.xor a f) f opXor s
def execAndn (a : Issue) (dbl : Bool) (rd ra rb : Reg) (s : State) : Out := alu a (.andn a dbl rd ra rb) (longForm dbl rd ra rb) opAndn s
def execShl (a : Issue) (f : AluForm) (s : State) : Out := alu a (.shl a f) f opShl s
def execShr (a : Issue) (f : AluForm) (s : State) : Out := alu a (.shr a f) f opShr s
def execSar (a : Issue) (f : AluForm) (s : State) : Out := alu a (.sar a f) f opSar s
def execRol (a : Issue) (dbl : Bool) (rd ra rb : Reg) (s : State) : Out := alu a (.rol a dbl rd ra rb) (longForm dbl rd ra rb) opRol s
def execSlt (a : Issue) (f : AluForm) (s : State) : Out := alu a (.slt a f) f opSlt s
def execSltu (a : Issue) (f : AluForm) (s : State) : Out := alu a (.sltu a f) f opSltu s
def execMin (a : Issue) (dbl : Bool) (rd ra rb : Reg) (s : State) : Out := alu a (.min a dbl rd ra rb) (longForm dbl rd ra rb) opMin s
def execMax (a : Issue) (dbl : Bool) (rd ra rb : Reg) (s : State) : Out := alu a (.max a dbl rd ra rb) (longForm dbl rd ra rb) opMax s
def execMinu (a : Issue) (dbl : Bool) (rd ra rb : Reg) (s : State) : Out := alu a (.minu a dbl rd ra rb) (longForm dbl rd ra rb) opMinu s
def execMaxu (a : Issue) (dbl : Bool) (rd ra rb : Reg) (s : State) : Out := alu a (.maxu a dbl rd ra rb) (longForm dbl rd ra rb) opMaxu s

/-- A shift by an immediate, which is reserved beyond the width (R155). -/
def shiftImm (a : Issue) (i : Instr) (dbl : Bool) (rd ra : Reg) (n : BitVec 7)
    (op : (w : Nat) → BitVec w → Nat → BitVec w) (s : State) : Out :=
  instr a i 4 (seq do
    if (if dbl then 72 else 36) ≤ n.toNat then illegal
    if dbl then
      needEven rd
      needEven ra
      let v ← rP a.core ra
      wP a.core rd (op 72 v n.toNat)
    else
      let v ← rG a.core ra
      wG a.core rd (op 36 v n.toNat)) s

def execShli (a : Issue) (dbl : Bool) (rd ra : Reg) (n : BitVec 7) (s : State) : Out :=
  shiftImm a (.shli a dbl rd ra n) dbl rd ra n (fun _ v c => shl v c) s
def execShri (a : Issue) (dbl : Bool) (rd ra : Reg) (n : BitVec 7) (s : State) : Out :=
  shiftImm a (.shri a dbl rd ra n) dbl rd ra n (fun _ v c => shr v c) s
def execSari (a : Issue) (dbl : Bool) (rd ra : Reg) (n : BitVec 7) (s : State) : Out :=
  shiftImm a (.sari a dbl rd ra n) dbl rd ra n (fun _ v c => sar v c) s

def execNeg (a : Issue) (rd rs : Reg) (s : State) : Out := unaryW a (.neg a rd rs) 2 rd rs (fun v => -v) s
def execNot (a : Issue) (rd rs : Reg) (s : State) : Out := unaryW a (.not a rd rs) 2 rd rs (fun v => ~~~v) s
/-- DEDUCED, log 29. -/
def execClrmk (a : Issue) (rd rs : Reg) (s : State) : Out := unaryW a (.clrmk a rd rs) 2 rd rs clearMarks s
def execClz (a : Issue) (rd ra : Reg) (s : State) : Out := unaryW a (.clz a rd ra) 4 rd ra (fun v => BitVec.ofNat 36 (clz v)) s

/-- MOVD (R120). -/
def execMovd (a : Issue) (rd rs : Reg) (s : State) : Out :=
  instr a (.movd a rd rs) 2 (seq do
    needEven rd
    needEven rs
    let v ← rP a.core rs
    wP a.core rd v) s

/-- A checked operation: the exact signed result, or integer-overflow with G[rd] unchanged (R156). -/
def checkedBody (k : Nat) (dbl : Bool) (rd ra rb : Reg) (op : Int → Int → Int) : M Unit := do
  if dbl then
    needEven rd
    needEven ra
    needEven rb
    let x ← rP k ra
    let y ← rP k rb
    let v := op (sgn x) (sgn y)
    if !fitsS 72 v then raise 6 1 0 0
    wP k rd (BitVec.ofInt 72 v)
  else
    let x ← rG k ra
    let y ← rG k rb
    let v := op (sgn x) (sgn y)
    if !fitsS 36 v then raise 6 1 0 0
    wG k rd (BitVec.ofInt 36 v)

def execAddv (a : Issue) (dbl : Bool) (rd ra rb : Reg) (s : State) : Out :=
  instr a (.addv a dbl rd ra rb) 4 (seq (checkedBody a.core dbl rd ra rb (fun x y => x + y))) s
def execSubv (a : Issue) (dbl : Bool) (rd ra rb : Reg) (s : State) : Out :=
  instr a (.subv a dbl rd ra rb) 4 (seq (checkedBody a.core dbl rd ra rb (fun x y => x - y))) s
def execNegv (a : Issue) (dbl : Bool) (rd ra : Reg) (s : State) : Out :=
  instr a (.negv a dbl rd ra) 4 (seq (checkedBody a.core dbl rd ra 0 (fun x _ => -x))) s

/-! ### Immediates (R119, R127) -/

def execAddis (a : Issue) (rd : Reg) (imm : BitVec 9) (s : State) : Out :=
  unaryW a (.addis a rd imm) 2 rd rd (fun v => v + sext 36 imm) s
def execLis (a : Issue) (rd : Reg) (imm : BitVec 9) (s : State) : Out := unaryW a (.lis a rd imm) 2 rd 0 (fun _ => sext 36 imm) s
def execAddi (a : Issue) (rd ra : Reg) (imm : BitVec 18) (s : State) : Out :=
  unaryW a (.addi a rd ra imm) 4 rd ra (fun v => v + sext 36 imm) s
def execAndi (a : Issue) (rd ra : Reg) (imm : BitVec 18) (s : State) : Out :=
  unaryW a (.andi a rd ra imm) 4 rd ra (fun v => v &&& zext 36 imm) s
def execOri (a : Issue) (rd ra : Reg) (imm : BitVec 18) (s : State) : Out :=
  unaryW a (.ori a rd ra imm) 4 rd ra (fun v => v ||| zext 36 imm) s
def execXori (a : Issue) (rd ra : Reg) (imm : BitVec 18) (s : State) : Out :=
  unaryW a (.xori a rd ra imm) 4 rd ra (fun v => v ^^^ zext 36 imm) s
def execLih (a : Issue) (rd : Reg) (imm : BitVec 18) (s : State) : Out :=
  unaryW a (.lih a rd imm) 4 rd 0 (fun _ => imm ++ (0 : BitVec 18)) s
def execSlti (a : Issue) (rd ra : Reg) (imm : BitVec 18) (s : State) : Out :=
  unaryW a (.slti a rd ra imm) 4 rd ra (fun v => opSlt 36 v (sext 36 imm)) s
def execSltiu (a : Issue) (rd ra : Reg) (imm : BitVec 18) (s : State) : Out :=
  unaryW a (.sltiu a rd ra imm) 4 rd ra (fun v => opSltu 36 v (sext 36 imm)) s

end Sys2Proof.Machine
end

