-- ==== Sys2Proof/Machine/Remote.lean ====
section
/-! DEFINITION. Remote coprocessor slots (04 R147-R150, 18 R564, R565): the request, its answer and its time-out. -/

namespace Sys2Proof.Machine

def cpAbsent : Exc := { cls := 1, code := 5 }

/-- The instruction word that a CPREQ carries (R122, R147). -/
def cpWord (sl : Nat) (rd ra rb : Reg) (cfn : BitVec 13) : Word :=
  mkw 36 [(1, 3), (7, 0o74 + sl), (12, rd), (17, ra), (22, rb), (35, cfn.toNat)]

/-- TAG of core `k`'s next request (R564) (DESIGN CHOICE, log 48). -/
def cpTag (k n : Nat) : BitVec 16 := BitVec.ofNat 16 (512 * k + n)

/-- Sends a CPREQ over the slot's link, and the core waits (DESIGN CHOICE, log 48). -/
def Sys.cpSend (k : Nat) (r : RemoteSlot) (sl : Nat) (rd ra rb : Reg) (cfn : BitVec 13) (s : Sys) : Sys :=
  let x := s.ctx k
  let c := s.core k
  let p : Packet :=
    { link := linkNo r.link, vc := 0, typ := 0o01, dest := BitVec.ofNat 18 r.ident, src := s.img.modid,
      sepoch := s.port.epoch, depoch := (s.epochOf r.ident).2, part := x.part, status := 0, tag := cpTag k c.remCnt, seg := 0,
      last := true, poison := false, body := wordsToSyls [cpWord sl rd ra rb cfn, x.rdG ra, x.rdG rb] }
  let s := s.queueOn r.link p
  s.setCore k { c with remCnt := (c.remCnt + 1) % 512, remote := some { tag := p.tag, rd := rd, slot := sl } }

def execCpRemote (a : Issue) (sl : Fin 4) (rd ra rb : Reg) (cfn : BitVec 13) (s : State) : Out :=
  instrMicro a (.cpRemote a sl rd ra rb cfn) 4 (do
    let s ← get
    match (s.img.remotes[sl.val]?).getD none with
    | none => raise 1 5 0 0
    | some r =>
      upd (fun s => s.cpSend a.core r sl rd ra rb cfn)
      waitPoint a
      throw .stay) s

/-- The waiting instruction ends: with its value, or with coprocessor-absent. -/
def Sys.cpEnd (k : Nat) (r : RemReq) (v : Option Word) (s : Sys) : Sys :=
  let s := s.modCore k (fun c => { c with remote := none })
  match v with
  | some w => (s.modCtx k (fun x => x.wrG r.rd w)).retire k 4 .seq
  | none => s.takeExc k cpAbsent

/-- The fenced slot that still owed itself the answer with this tag: its mesh port discards it (R29, R44). -/
def Sys.fencedFor (s : Sys) (tag : BitVec 16) : Option Nat :=
  (s.tansy.slots.find? (fun v => v.2.owed.contains tag)).map (fun v => v.1)

/-- DESIGN CHOICE, logs 48 and 75. -/
def Sys.cpans (h : PktHdr) (value : Option Word) (s : Sys) : Sys :=
  let r := s.rxCheck h false
  if !r.2 then r.1
  else
    let s := r.1
    let k := h.tag.toNat / 512
    let drop : Sys := { s with fab := { s.fab with cpDrops := s.fab.cpDrops + 1 } }
    match s.fencedFor h.tag with
    | some n =>
      (s.setSlot n { s.slot n with owed := (s.slot n).owed.erase h.tag }).discarded
    | none => match (s.core k).remote with
      | some q =>
        if q.tag = h.tag && (s.running k).isSome then s.cpEnd k q (if h.status = 0 then value else none) else drop
      | none => drop

def execCpans (h : PktHdr) (value : Option Word) (s : State) : Out := onSys (fun s => s.cpans h value) s

def execRemoteTimeout (k : CoreId) (s : State) : Out :=
  onSys (fun s => match (s.core k).remote with
    | some q => if (s.running k).isSome then s.cpEnd k q none else s
    | none => s) s

end Sys2Proof.Machine
end

