-- ==== Sys2Proof/Machine/Links.lean ====
section
/-! DEFINITION. The CQ links and the fabric's messages (18 R546-R565): frames, replay, training, forwarding, EPOCH, ECHO
and NAK; and the pairing engines (R566-R572). -/

namespace Sys2Proof.Machine

/-! ## Links (R548-R552) -/

/-- The packet that the syllables of a frame hold (R553). -/
def packetOf (l : Link) (x : List Syl) : Packet :=
  let w0 := wordOf (x.take 4)
  let w1 := wordOf ((x.drop 4).take 4)
  let c := dwordOf ((x.drop 8).take 8)
  { link := l, vc := fld w0 0 1, typ := fld w0 2 7, dest := BitVec.ofNat 18 (fld w0 8 25), poison := kbit w0 33,
    src := BitVec.ofNat 18 (fld w1 0 17), sepoch := BitVec.ofNat 16 (fld w1 18 33),
    depoch := BitVec.ofNat 16 (fld c 0 15), part := fld c 16 25, status := fld c 26 35,
    tag := BitVec.ofNat 16 (fld c 36 51), seg := fld c 52 54, last := kbit c 55, body := (x.drop 16).take (fld w0 26 32 - 8) }

def hdrOf (p : Packet) : PktHdr :=
  { link := p.link, src := p.src, sepoch := p.sepoch, depoch := p.depoch, part := p.part, status := p.status, tag := p.tag,
    poison := p.poison }

/-- The TYPE is one of R554 for its VC. -/
def typeOk (vc typ : Nat) : Bool :=
  match vc with
  | 0 => 1 ≤ typ && typ ≤ 5
  | 1 => 0o10 ≤ typ && typ ≤ 0o13
  | 2 => 0o20 ≤ typ && typ ≤ 0o25
  | _ => typ = 0o30 || typ = 0o31

/-- The answer to a seal reaches the active side (R569): adopted, or the frames count as changed again (DEDUCED, log 42). -/
def Sys.sealAnswer (p : Nat) (ok : Bool) (s : Sys) : Sys :=
  let st := s.pairSt p
  match st.pend with
  | none => s
  | some (b, fr) =>
    if !ok then
      s.setPair p { st with pend := none, chgA := if b then st.chgA else fr.foldl ninsert st.chgA,
                            chgB := if b then fr.foldl ninsert st.chgB else st.chgB }
    else
      let n := st.sealed + 1
      let st : PairSt := { st with pend := none, hasSeal := true, buf := b, sealed := n, fullA := st.fullA || !b,
                                   fullB := st.fullB || b }
      if st.st = 0 && 2 ≤ n then
        let s := s.setPair p { st with st := 1, degraded := false }
        if st.degraded then s.noticeFree p 5 533 else s
      else s.setPair p st

/-- PACK at the active side (R567) (DEDUCED, log 42). -/
def Sys.pack (p : Packet) (s : Sys) : Sys :=
  let r := s.rxCheck (hdrOf p) false
  if !r.2 then r.1
  else match r.1.pairOf p.part with
    | some x =>
      if x.standby || x.peer != p.src.toNat then r.1
      else if p.tag = psealTag p.part then r.1.sealAnswer p.part (p.status = 0)
      else (r.1.packUpTo p.part (some (dwordOf (p.body.take 8)).toNat)).balance
    | none => r.1

/-- An accepted packet: what a message's own command does not give (DEDUCED, log 42). -/
def Sys.arrived (p : Packet) (s : Sys) : Sys :=
  if p.dest.toNat != s.modid then s
  else if !typeOk p.vc p.typ then (s.sawEpoch (hdrOf p)).nak (hdrOf p) 514
  else if p.vc = 2 && p.typ = 0o23 then s.pack p
  else
    let l := s.link p.link
    let same (q : Packet) : Bool := q.src = p.src && q.tag = p.tag
    s.setLink p.link { l with rx := if p.last then l.rx.filter (fun q => !same q) else l.rx ++ [p] }

/-- A frame on an UP link: replay is requested for a bad one, a good one out of order is dropped, and one in order returns
credit and delivers its packet (DEDUCED, log 42). -/
def Sys.frame (l : Link) (f : Frame) (s : Sys) : Sys :=
  let x := s.link l
  if x.st != 2 then s
  else
    let p := packetOf l f.packet
    if f.fecBad || crc32c f.packet != f.crc || (2 ≤ p.vc && !typeOk p.vc p.typ) then
      s.setLink l { x with replay := sat12 (x.replay + 1), telReplay := x.telReplay + 1 }
    else if f.fseq != x.rxSeq then s
    else
      let c := (x.credits[f.credVc]?).getD 0
      let y : CqLink := { x with rxSeq := x.rxSeq + 1, credits := x.credits.set f.credVc (c + f.credit),
                                 owe := x.owe.set p.vc ((x.owe[p.vc]?).getD 0 + 1) }
      Sys.arrived p (s.setLink l (sendReady y))

def execFrame (l : Link) (f : Frame) (s : State) : Out := onSys (fun s => s.frame l f) s

/-- The other end asks for its frames again: the sender replays those it keeps, from that one on (DEDUCED, log 63). -/
def Sys.replay (l : Link) (fseq : BitVec 18) (s : Sys) : Sys :=
  let x := s.link l
  if x.st = 2 && x.sent.any (fun f => f.fseq = fseq) then
    s.setLink l { x with resent := x.sent.dropWhile (fun f => f.fseq != fseq), acked := some fseq }
  else s

def execReplayRequest (l : Link) (fseq : BitVec 18) (s : State) : Out := onSys (fun s => s.replay l fseq) s

/-- The frames of `l` after the last that the other end is known to have: all but the last `n` of a VC, when `n` of its
credits are out, and those before the last replay request (R549, R552) (DEDUCED, log 63). -/
def CqLink.unacked (x : CqLink) : List Frame :=
  let tail (v : Nat) : List Frame :=
    let fs := x.sent.filter (fun f => (packetOf 0 f.packet).vc = v)
    let n := ([32, 32, 64, 8][v]?).getD 0 - (x.credits[v]?).getD 0
    fs.drop (fs.length - n)
  let out := (List.range 4).flatMap tail
  let had := x.sent.reverse.dropWhile (fun f => out.contains f)
  let l := x.sent.drop had.length
  match x.acked with
  | some a => if l.any (fun f => f.fseq = a) then l.dropWhile (fun f => f.fseq != a) else l
  | none => l

/-- Messages that wait whole for a link that is not UP and now have another one go there: once a segment has gone, the rest
follows it (R554, R556) (DEDUCED, log 63). -/
def Sys.reroute (s : Sys) (l : Nat) : Sys :=
  let x := s.link l
  if x.st = 2 then s
  else
    let whole (p : Packet) : Bool := x.egress.any (fun q => q.src = p.src && q.tag = p.tag && q.seg = 0)
    let hop (p : Packet) : Option Nat := if whole p then (s.routeOf p.dest.toNat).bind s.pickLink else none
    let go := x.egress.filter (fun p => (hop p).isSome)
    let s := s.setLink l { x with egress := x.egress.filter (fun p => (hop p).isNone) }
    go.foldl (fun (s : Sys) p => match hop p with
      | some m => s.sendBy m p
      | none => s) s

/-- A link comes UP: what waits is sent (DEDUCED, log 63). -/
def Sys.cameUp (l : Nat) (s : Sys) : Sys :=
  let x := s.link l
  let s := s.setLink l (sendReady x)
  (s.fab.links.map (fun y => y.1)).foldl Sys.reroute s

def Sys.present (s : Sys) (l : Nat) : Bool := s.img.links.getLsbD l

/-- Training of a present link that is DOWN or in TRAIN, after lane calibration and not after a halt: it begins, or ends (R550, R551, R591)
(DEDUCED, log 63). -/
def State.train (l : Link) (ok : Option Bool) (s : State) : State :=
  let x := s.sys.link l
  if !s.sys.present l || !s.boot.steps.contains 6 || s.boot.halted || 2 ≤ x.st then s
  else match ok with
    | none => s.mod (fun y => y.setLink l { x with st := 1 })
    | some true => s.mod (fun y => (y.setLink l { x with st := 2 }).cameUp l)
    | some false => s.mod (fun y => y.setLink l { x with st := 0 })

def execLinkTraining (l : Link) (ok : Option Bool) (s : State) : Out := .next (s.train l ok)
def execTrainingRetry (l : Link) (ok : Option Bool) (s : State) : Out := .next (s.train l ok)

/-- A retrain from the last good coefficients begins, or ends and is counted (R552): the third failure in a row retires the
link (DEDUCED, log 63). -/
def Sys.retrain (l : Link) (ok : Option Bool) (s : Sys) : Sys :=
  let x := s.link l
  if x.st != 2 && x.st != 3 then s
  else
    let n := sat 255 (x.retrains + 1)
    match ok with
    | none => (s.setLink l { x with st := 3 }).reroute l
    | some true => (s.setLink l { x with st := 2, retrains := n, fails := 0, resent := x.unacked }).cameUp l
    | some false =>
      (s.setLink l { x with st := if 2 ≤ x.fails then 4 else 3, retrains := n, fails := x.fails + 1 }).reroute l

def execRetrain (l : Link) (ok : Option Bool) (s : State) : Out := onSys (fun s => s.retrain l ok) s

/-! ## Forwarding, EPOCH, ECHO, NAK (R554-R563) -/

/-- A packet for another module goes on, or is answered 515 when it is a request or posting without a link (R556). -/
def Sys.forwardPacket (p : Packet) (s : Sys) : Sys :=
  if p.dest.toNat = s.modid then s
  else
    let r := s.emit p
    if r.2 then r.1 else s.nak (hdrOf p) 515

def execPacketForward (p : Packet) (s : State) : Out := onSys (fun s => s.forwardPacket p) s

/-- An EPOCH packet changes the record of a peer on another shelf when it is newer (R559). -/
def Sys.epochPacket (h : PktHdr) (ident : Nat) (live : Bool) (ep : BitVec 16) (s : Sys) : Sys :=
  let r := s.rxCheck h false
  if !r.2 then r.1
  else match r.1.peerOf ident with
    | some p => if p.slot.isNone && newer ep (r.1.epochOf ident).2 then r.1.recordEpoch ident live ep else r.1
    | none => r.1

def execEpochPacket (h : PktHdr) (ident : BitVec 18) (live : Bool) (ep : BitVec 16) (s : State) : Out :=
  onSys (fun s => s.epochPacket h ident.toNat live ep) s

def execEcho (h : PktHdr) (body : List Syl) (s : State) : Out :=
  onSys (fun s =>
    let r := s.rxCheck h false
    if r.2 then r.1.sendOff h.src.toNat 3 0o31 h.part h.status h.tag body else r.1) s

/-- The posting that a NAK's tag names (DEDUCED, log 65). -/
def Sys.nakPosting (s : Sys) (tag : BitVec 16) : Option (Nat × Nat) :=
  ((s.bus.flatMap (fun b => b.2.posts.map (fun p => (b.1, p.1, p.2)))).find?
    (fun x => x.2.2.coord.isNone && !x.2.2.others.isEmpty && !x.2.2.phase.past && postTag x.1 x.2.1 = tag)).map
    (fun x => (x.1, x.2.1))

/-- A NAK ends the request or posting that it answers; 511 also says that this module's slot is not live (R563)
(DEDUCED, log 65). -/
def Sys.nakSeen (h : PktHdr) (s : Sys) : Sys :=
  let r := s.rxCheck h false
  if !r.2 then r.1
  else
    let s := if h.status = 511 then r.1.actStale else r.1
    match s.nakPosting h.tag with
    | some (q, n) => (s.fail q n h.status 31 h.src.toNat).balance
    | none =>
      let k := h.tag.toNat / 512
      match (s.core k).remote with
      | some q => if q.tag = h.tag && (s.running k).isSome then s.cpEnd k q none else s
      | none =>
        if h.tag = psealTag h.part then s.sealAnswer h.part false else s

def execNak (h : PktHdr) (s : State) : Out := onSys (fun s => s.nakSeen h) s

/-! ## The stream (R567, R570) -/

/-- The standby side of a pair that a message of its active side names. -/
def Sys.standbyOf (s : Sys) (h : PktHdr) : Option Pair :=
  match s.pairOf h.part with
  | some x => if x.standby && x.peer = h.src.toNat && (s.pairSt h.part).st != 3 then some x else none
  | none => none

/-- The stream records that are missing below `n`. -/
def missing (st : PairSt) (n : Nat) : List Nat :=
  let hi := st.recs.foldl (fun m r => max m r.sseq) st.sseq
  (List.range (n - hi - 1)).map (fun i => hi + 1 + i)

/-- A stream record at the standby: written to the journal devices that are online; a gap asks for what is missing. The
first record that a standby takes begins its count (DEDUCED, log 64). -/
def Sys.takeStream (h : PktHdr) (n : Nat) (data : List Syl) (s : Sys) : Sys :=
  let st := s.pairSt h.part
  let st : PairSt := if st.recs.isEmpty && st.sseq = 0 then { st with sseq := n - 1 } else st
  if n ≤ st.sseq || st.recs.any (fun r => r.sseq = n) then s
  else
    let q := streamQuad h.link
    let up := s.j0up || s.j1up
    let f := if up then (s.deviceWrite q [((dwordOf (data.take 8)).toNat, data)]).flushIssued q else (0, s)
    let s := f.2
    let r : StrRec := { sseq := n, quad := q, data := data, wrote := up, need0 := s.j0up, need1 := s.j1up, batch := f.1 }
    (missing st n).foldl (fun (s : Sys) m => s.sendOff h.src.toNat 0 0o05 h.part 0 (prdTag h.part) (sylsD (BitVec.ofNat 72 m)))
      (s.setPair h.part { st with recs := st.recs ++ [r] })

/-- A stream record; a poisoned one brings nothing, and is asked for again as a gap (DEDUCED, log 64). -/
def Sys.pstrm (h : PktHdr) (n : Nat) (data : List Syl) (s : Sys) : Sys :=
  let r := s.rxCheck h true
  if r.2 && (r.1.standbyOf h).isSome && !h.poison then r.1.takeStream h n data else r.1

/-- A record sent again; a poisoned one brings nothing (DEDUCED, log 64). -/
def Sys.prdata (h : PktHdr) (n : Nat) (data : List Syl) (poison : Bool) (s : Sys) : Sys :=
  let r := s.rxCheck h false
  if r.2 && (r.1.standbyOf h).isSome && !poison then r.1.takeStream h n data else r.1

/-- The journal record that carried a stream sequence and still awaits its PACK. -/
def Sys.streamRec (s : Sys) (p n : Nat) : Option (Nat × JRec) :=
  (s.bus.flatMap (fun b => b.2.recs.map (fun r => (b.1, r)))).find? (fun x => x.2.part = p && x.2.pack = some n)

/-- PRD at the active side: the record is read from the journal ring and sent again (DEDUCED, log 64). -/
def Sys.prd (h : PktHdr) (n : Nat) (s : Sys) : Sys :=
  let r := s.rxCheck h true
  if !r.2 then r.1
  else match r.1.streaming h.part, r.1.streamRec h.part n with
    | some x, some (q, j) =>
      if x.peer != h.src.toNat then r.1
      else
        let a := r.1.recAddr q j.pos
        let s := r.1.fetchFor 4 a 128
        (s.sendMsg x.peer 2 0o24 h.part 0 h.tag (s.poisonedSpan a 128) (sylsD (BitVec.ofNat 72 n) ++ s.rd a 128)).1
    | _, _ => r.1

def execPstrm (h : PktHdr) (sseq : DWord) (rec : List Syl) (s : State) : Out := onSys (fun s => s.pstrm h sseq.toNat rec) s
def execPrd (h : PktHdr) (sseq : DWord) (s : State) : Out := onSys (fun s => s.prd h sseq.toNat) s
def execPrdata (h : PktHdr) (sseq : DWord) (rec : List Syl) (poison : Bool) (s : State) : Out :=
  onSys (fun s => s.prdata h sseq.toNat rec poison) s

/-! ## Checkpoints (R568, R569) -/

/-- The lines of the checkpoint regions: offset in the buffer and address. -/
def regionLines : Nat → List (Nat × Nat) → List (Nat × Nat)
  | _, [] => []
  | off, (a, n) :: l => (List.range ((n + 63) / 64)).map (fun i => (off + 64 * i, a + 64 * i)) ++ regionLines (off + n) l

/-- CUSTODY asks for a checkpoint: changed lines as PCKD, then PSEAL; a seal without a link is answered 515 at once (R556), which
keeps the previous one (DEDUCED, log 64). -/
def Sys.checkpoint (p : Nat) (s : Sys) : Sys :=
  match s.streaming p with
  | none => s
  | some x =>
    let st := s.pairSt p
    if st.pend.isSome then s
    else
      let b := st.hasSeal && !st.buf
      let chg := if b then st.chgB else st.chgA
      let full := if b then st.fullB else st.fullA
      let lines := (regionLines 0 x.regions).filter (fun l => !full || chg.contains (l.2 / 4096))
      let frames := lines.foldl (fun fr l => ninsert fr (l.2 / 4096)) []
      let s := s.setPair p { st with pend := some (b, frames), chgA := if b then st.chgA else [],
                                     chgB := if b then [] else st.chgB }
      let s := lines.foldl (fun (s : Sys) l =>
        let s := s.fetchFor 4 l.2 64
        (s.sendMsg x.peer 0 0o03 p 0 (pckdTag p) (s.poisonedSpan l.2 64) (sylsD (BitVec.ofNat 72 l.1) ++ s.rd l.2 64)).1) s
      let dat := lines.flatMap (fun l => s.rd l.2 64)
      let r := s.sendMsg x.peer 0 0o04 p 0 (psealTag p) false
        (sylsD (BitVec.ofNat 72 st.top) ++ wordsToSyls [BitVec.ofNat 36 dat.length, mkw 36 [(31, (crc32c dat).toNat), (35, b.toNat)]])
      if r.2 then r.1 else r.1.sealAnswer p false

def execCheckpoint (p : PartId) (s : State) : Out := onSys (fun s => s.checkpoint p) s

/-- A checkpoint line at the standby: until the seal the buffer that is not the newest sealed one is indeterminate, but for a
line that a Balance Unit holds (R262); without a seal, both are (DEDUCED, log 64). -/
def Sys.pckd (h : PktHdr) (off : Nat) (data : List Syl) (s : Sys) : Sys :=
  let r := s.rxCheck h true
  if !r.2 then r.1
  else match r.1.standbyOf h with
    | none => r.1
    | some x =>
      let st := r.1.pairSt h.part
      let lose (b : Bool) (s : Sys) : Sys :=
        let a := bufBase x b + off
        if (st.hasSeal && st.buf = b) || s.spanLocked a data.length then s else s.wrFree a data.length
      Sys.setPair h.part { st with got := tset st.got off (data, h.poison) } (lose true (lose false r.1))

def execPckd (h : PktHdr) (off : Nat) (data : List Syl) (s : State) : Out := onSys (fun s => s.pckd h off data) s

def Sys.pseal (h : PktHdr) (s0 len : Nat) (crc : BitVec 32) (buf : Bool) (s : Sys) : Sys :=
  let r := s.rxCheck h true
  if !r.2 then r.1
  else match r.1.standbyOf h with
    | none => r.1
    | some x => r.1.adoptSeal x { hdr := h, s0 := s0, len := len, crc := crc, buf := buf }

def execPseal (h : PktHdr) (s0 : DWord) (len : Nat) (crc : BitVec 32) (buf : Bool) (s : State) : Out :=
  onSys (fun s => (s.pseal h s0.toNat len crc buf).drainAll) s

/-! ## Failover (R571) -/

/-- The standby takes over, once every stream record it has taken is durable (DEDUCED, log 64). -/
def Sys.failover (p : Nat) (s : Sys) : Sys :=
  match s.pairOf p with
  | none => s
  | some x =>
    let st := s.pairSt p
    if !x.standby || !st.lost || st.st = 3 then s
    else
      let s : Sys := { s with fab := { s.fab with links := s.fab.links.map (fun l =>
        (l.1, { l.2 with rx := l.2.rx.filter (fun q => q.src.toNat != x.peer) })) } }
      if !st.recs.all strDurable then s
      else (s.setPair p { st with st := 3, got := [] }).notice p 5 530 0 (mkw 36 [(17, x.peer), (35, st.buf.toNat)])

def execFailover (p : PartId) (s : State) : Out := onSys (fun s => s.failover p) s

end Sys2Proof.Machine
end

