-- ==== Sys2Proof/Machine/LoadStore.lean ====
section
/-! DEFINITION. Loads and stores (04 R119, R128, R132; 02 R51-R56), and the LDW of a command port (11 R364). -/

namespace Sys2Proof.Machine

/-- A load of `n` syllables at G[rb] + disp whose value goes to G[rd] through `f`. -/
def loadTo (a : Issue) (i : Instr) (len n : Nat) (rd rb : Reg) (disp : Int) (f : List Syl → Word) (s : State) : Out :=
  instr a i len (seq do
    let b ← rG a.core rb
    let l ← loadN a.core n (memAddr b disp)
    wG a.core rd (f l)) s

/-- A double-word load into a pair. -/
def ldwBody (k : Nat) (rd rb : Reg) (disp : BitVec 18) : M Unit := do
  needEven rd
  let b ← rG k rb
  let l ← loadAs k 8 (memAddr b disp.toInt) true
  wP k rd (dwordOf l)

/-- A store at G[rb] + disp of the syllables that `f` takes from G[rd]. -/
def storeFrom (a : Issue) (i : Instr) (len : Nat) (rd rb : Reg) (disp : Int) (f : Word → List Syl) (s : State) : Out :=
  instr a i len (seq do
    let b ← rG a.core rb
    let v ← rG a.core rd
    storeN a.core (memAddr b disp) (f v)) s

def execLws (a : Issue) (rd rb : Reg) (disp : BitVec 4) (s : State) : Out :=
  loadTo a (.lws a rd rb disp) 2 4 rd rb (4 * disp.toNat) wordOf s
def execSws (a : Issue) (rd rb : Reg) (disp : BitVec 4) (s : State) : Out :=
  storeFrom a (.sws a rd rb disp) 2 rd rb (4 * disp.toNat) sylsW s
/-- LH: bits 18-35, marks in 18 and 27, bits 0-17 zero. -/
def execLh (a : Issue) (rd rb : Reg) (disp : BitVec 18) (s : State) : Out := loadTo a (.lh a rd rb disp) 4 2 rd rb disp.toInt wordOf s
def execLw (a : Issue) (rd rb : Reg) (disp : BitVec 18) (s : State) : Out := loadTo a (.lw a rd rb disp) 4 4 rd rb disp.toInt wordOf s
def execLdw (a : Issue) (rd rb : Reg) (disp : BitVec 18) (s : State) : Out :=
  instr a (.ldw a rd rb disp) 4 (seq (ldwBody a.core rd rb disp)) s
def execLsy (a : Issue) (rd rb : Reg) (disp : BitVec 18) (s : State) : Out := loadTo a (.lsy a rd rb disp) 4 1 rd rb disp.toInt wordOf s
def execLoc (a : Issue) (rd rb : Reg) (disp : BitVec 18) (s : State) : Out :=
  loadTo a (.loc a rd rb disp) 4 1 rd rb disp.toInt (fun l => wordOf (l.map (fun x => mkSyl false (octet x)))) s
def execLwn (a : Issue) (rd rb : Reg) (disp : BitVec 18) (s : State) : Out :=
  loadTo a (.lwn a rd rb disp) 4 4 rd rb disp.toInt (fun l => clearMarks (wordOf l)) s
def execSh (a : Issue) (rd rb : Reg) (disp : BitVec 18) (s : State) : Out :=
  storeFrom a (.sh a rd rb disp) 4 rd rb disp.toInt (fun v => sylsOf 2 v.toNat) s
def execSw (a : Issue) (rd rb : Reg) (disp : BitVec 18) (s : State) : Out := storeFrom a (.sw a rd rb disp) 4 rd rb disp.toInt sylsW s
def execSdw (a : Issue) (rd rb : Reg) (disp : BitVec 18) (s : State) : Out :=
  instr a (.sdw a rd rb disp) 4 (seq do
    needEven rd
    let b ← rG a.core rb
    let v ← rP a.core rd
    storeAs a.core (memAddr b disp.toInt) (sylsD v) true) s
def execSsy (a : Issue) (rd rb : Reg) (disp : BitVec 18) (s : State) : Out :=
  storeFrom a (.ssy a rd rb disp) 4 rd rb disp.toInt (fun v => sylsOf 1 v.toNat) s

/-- COMMAND_RESULT: the LDW of port + 8, which waits for the context's earlier stores to the port (R364): a load from
I/O space commits every queued store first. -/
def execCommandResult (a : Issue) (rd rb : Reg) (disp : BitVec 18) (s : State) : Out :=
  instr a (.ldw a rd rb disp) 4 (seq do
    needEven rd
    let b ← rG a.core rb
    let l ← loadAs a.core 8 (memAddr b disp.toInt) true
    wP a.core rd (dwordOf l)) s

end Sys2Proof.Machine
end

