-- ==== Sys2Proof/Machine/PostInstr.lean ====
section
/-! DEFINITION. The instructions of coprocessor slot 0 (08 R248-R251, R645; 17 R535, R538). -/

namespace Sys2Proof.Machine

/-- The descriptor at `va`: the header, and the legs when NLEG lies from 2 to 16 (R249). -/
def readDesc (k va : Nat) : M Desc := do
  let h ← readSpan k va 32
  let hdr := wordsOf h
  let n := fld (hdr.headD 0) 0 4
  if nlegOk n then
    let l ← readSpan k (va + 32) (24 * n)
    pure { hdr := hdr, legs := (List.range n).map (fun i => legSyls l i) }
  else pure { hdr := hdr, legs := [] }

/-- POST and PREP: submission, or the interruptible wait for acceptance (R250, R251). -/
def submitM (a : Issue) (ra : Reg) (prep : Bool) : M Unit := do
  let g ← rG a.core ra
  if g.toNat % 8 != 0 then misaligned 2 g.toNat
  let d ← readDesc a.core g.toNat
  let s ← get
  match s.submit (quadOf a.core) (s.ctx a.core) prep d with
  | some s' => set s'
  | none =>
    waitPoint a
    throw .stay

def execPost (a : Issue) (ra : Reg) (s : State) : Out := instrMicro a (.post a ra) 4 (seq (submitM a ra false)) s
def execPrep (a : Issue) (ra : Reg) (s : State) : Out := instrMicro a (.prep a ra) 4 (seq (submitM a ra true)) s

/-- A COMMIT or ABORT that names no live prepared posting: 223 to the issuer's ring (R287). -/
def Sys.notPrepared (q : Nat) (x : Ctx) (op : Nat) (pid : DWord) (s : Sys) : Sys :=
  match submitter x with
  | none => s
  | some r =>
    (s.setPart r { s.part r with resP := (s.part r).resP + 1 }).putRecord q r (sylsD pid ++ sylsD 0 ++
      wordsToSyls [mkw 36 [(9, 223), (14, 31), (19, op)], mkw 36 [(17, s.modid)], 0, 0]) x.taskid

/-- COMMIT and ABORT: `f` acts on the prepared posting that R645 finds. -/
def endM (a : Issue) (ra : Reg) (op : Nat) (f : Nat → Nat → Posting → Sys → Sys) : M Unit := do
  needEven ra
  let pid ← rP a.core ra
  let s ← get
  let q := quadOf a.core
  let x := s.ctx a.core
  if !s.ringRoom (submitter x) 1 then
    waitPoint a
    throw .stay
  match s.findPrep q (submitter x) pid with
  | some p => set (f q p.1 { p.2 with op := op } s)
  | none => set (s.notPrepared q x op pid)

def execCommit (a : Issue) (ra : Reg) (s : State) : Out :=
  instrMicro a (.commit a ra) 4 (seq (endM a ra 2 (fun q n p s => (s.setPosting q n { p with phase := .seqWait }).askNumber q n))) s

def execAbort (a : Issue) (ra : Reg) (s : State) : Out :=
  instrMicro a (.abort a ra) 4 (seq (endM a ra 3 (fun q n p s => ((s.setPosting q n p).fail q n 202 31 s.modid).balance))) s

/-- PSTAT's code for a live posting. -/
def pstatOf (p : Posting) : Nat := if p.phase.past then 3 else if p.ready then 2 else 1

/-- The posting accepted most recently. -/
def latest : List Posting → Option Posting
  | [] => none
  | p :: ps => match latest ps with
    | some r => if p.ord < r.ord then some r else some p
    | none => some p

def execPstat (a : Issue) (rd ra : Reg) (s : State) : Out :=
  instr a (.pstat a rd ra) 4 (seq do
    needEven ra
    let pid ← rP a.core ra
    let s ← get
    let x := s.ctx a.core
    let l := (s.bu (quadOf a.core)).posts.filterMap (fun p =>
      if p.2.pid = pid && p.2.sub = submitter x && p.2.coord.isNone then some p.2 else none)
    wG a.core rd (match latest l with
      | some p => BitVec.ofNat 36 (pstatOf p)
      | none => 0)) s

def execGetseq (a : Issue) (rd : Reg) (s : State) : Out :=
  instr a (.getseq a rd) 4 (seq do
    needEven rd
    let s ← get
    wP a.core rd (BitVec.ofNat 72 s.alloc.highest)) s

def execGetjh (a : Issue) (rd : Reg) (s : State) : Out :=
  instr a (.getjh a rd) 4 (seq do
    needEven rd
    let s ← get
    let x := s.ctx a.core
    wP a.core rd (if x.noPart then 0 else BitVec.ofNat 72 (s.horizon x.part))) s

def execSlacq (a : Issue) (rd ra : Reg) (s : State) : Out :=
  instrMicro a (.slacq a rd ra) 4 (seq do
    let g ← rG a.core ra
    let s ← get
    let r := s.slacq (s.ctx a.core) g
    set r.2
    wG a.core rd (BitVec.ofNat 36 r.1)) s

def execSlrel (a : Issue) (rd ra : Reg) (s : State) : Out :=
  instrMicro a (.slrel a rd ra) 4 (seq do
    let g ← rG a.core ra
    let s ← get
    let r := s.slrel (s.ctx a.core) g
    set r.2
    wG a.core rd (BitVec.ofNat 36 r.1)) s

/-! ## Events of the Balance Units and the Journal Writer -/

/-- An event of the units, and what it lets go on. -/
def buEvent (f : Sys → Sys) (s : State) : Out := onSys (fun s => (f s).balance) s

def execLockRelease (q : Quad) (line : Nat) (s : State) : Out := buEvent (fun s => s.lockRelease q line) s
def execWound (q : Quad) (slot : Nat) (s : State) : Out := buEvent (fun s => s.wound q slot) s
def execJournalSpace (q : Quad) (s : State) : Out := buEvent (fun s => s.journalSpace q) s
def execCommitPoint (q : Quad) (slot : Nat) (s : State) : Out := buEvent (fun s => s.commitPoint q slot) s
def execJournalWrite (q : Quad) (s : State) : Out := onSys (fun s => s.journalWrite q) s
def execFlushComplete (q : Quad) (dev : Bool) (s : State) : Out := buEvent (fun s => s.flushComplete q dev) s
def execPrepPacket (h : PktHdr) (m : PrepMsg) (s : State) : Out := buEvent (fun s => s.prepPacket h m) s
def execPans (h : PktHdr) (pid : DWord) (leg : Nat) (s : State) : Out := buEvent (fun s => s.pans h pid leg) s
def execCommitPacket (h : PktHdr) (pid sq : DWord) (s : State) : Out := buEvent (fun s => s.commitPacket h pid sq) s
def execAbortPacket (h : PktHdr) (pid : DWord) (s : State) : Out := buEvent (fun s => s.abortPacket h pid) s
def execResolve (h : PktHdr) (pid : DWord) (s : State) : Out := onSys (fun s => s.resolve h pid) s
def execResolved (h : PktHdr) (pid : DWord) (ok : Bool) (sq : DWord) (s : State) : Out :=
  buEvent (fun s => s.resolved h pid ok sq) s
def execPrepTimeout (q : Quad) (slot : Nat) (s : State) : Out := buEvent (fun s => s.prepTimeout q slot) s
def execResolveTimer (q : Quad) (slot : Nat) (s : State) : Out := onSys (fun s => s.resolveTimer q slot) s

/-- Custody firmware drives the device's PERST_L low while it is offline (21 R626). -/
def State.perstOut (dev low : Bool) (s : State) : State :=
  { s with pwr := if dev then { s.pwr with j1Low := low } else { s.pwr with j0Low := low } }

def execJournalDeviceOffline (dev : Bool) (s : State) : Out := buEvent (fun s => s.deviceOffline dev) (s.perstOut dev true)
def execJournalDeviceOnline (dev : Bool) (s : State) : Out := onSys (fun s => s.deviceOnline dev) (s.perstOut dev false)

/-- A read of BU_SEQH latches BU_SEQL (08). -/
def execBuSeqhRead (s : State) : Out := onSys (fun s => { s with seqlLatch := s.alloc.highest % w36 }) s

end Sys2Proof.Machine
end

