-- ==== Sys2Proof/Machine/Power.lean ====
section
/-! DEFINITION. The background services (20 R604-R624), power, clocks and temperature (21 R628-R636), and the boundary
scan and I3C address commands (R638, R639). -/

namespace Sys2Proof.Machine

/-! ## Yarrow (R605-R610) -/

/-- Syllables of a stack. -/
def stackSize : Nat := 0x800000000

def liveMcs (s : Sys) : List Nat := (List.range 8).filter (fun m => (s.mc m).up && !(s.mc m).fail)

/-- The lap ends when every live stack waits at its end, and the next begins at once. The lap's time in ms is counted in
the 1 ms telemetry strobes (DESIGN CHOICE, log 68). -/
def State.lapCheck (s : State) : State :=
  let l := liveMcs s.sys
  if l.isEmpty || !l.all (fun m => (s.sys.mc m).atEnd) then s
  else
    let ms := sat 262143 s.pwr.lapMs
    let x := l.foldl (fun (x : Sys) m => x.setMc m { x.mc m with ptr := 0, atEnd := false, inLap := true }) s.sys
    { s with sys := x, pwr := { s.pwr with lapLast := ms, lapMs := 0,
                                           lapBest := if s.pwr.lapBest = 0 then ms else min s.pwr.lapBest ms } }

/-- The next line of a stack: both code words are read; `e` says which stored bits of memory have changed since the last command
that said so. -/
def Sys.yarrow (m : Nat) (e : Ecc) (s : Sys) : Sys :=
  let x := s.mc m
  if !x.up || x.fail || !x.inLap || x.atEnd then s
  else
    let a := stackAddr m x.ptr
    let s := (s.addFlips e).readLine 5 (a / 64)
    let n := x.ptr + 64
    s.setMc m { s.mc m with ptr := n, atEnd := stackSize ≤ n, telLines := (s.mc m).telLines + 1 }

def execYarrowRead (m : StackId) (e : Ecc) (s : State) : Out :=
  let s := s.lapCheck
  .next (State.lapCheck (s.mod (fun x => x.yarrow m e)))

/-- The lap in progress passes the threshold (R610): the alarm, and a notice to cluster task 0 of C0. -/
def execLapAlarm (s : State) : Out :=
  .next { s with pwr := { s.pwr with ywAlarm := true, lapMs := max s.pwr.lapMs s.sys.img.lapThr },
                 sys := s.sys.custodyNotice 0 3 }

/-! ## Retraining of the memory channels (R611-R613) -/

/-- A channel is retrained; `forced`: after the controller stopped admitting requests (R612). -/
def Sys.retrainChan (m ch : Nat) (ok forced : Bool) (s : Sys) : Sys :=
  let x := s.mc m
  if !x.up || x.fail || x.failed.contains ch then s
  else s.setMc m { x with failed := if ok then x.failed else ninsert x.failed ch, telRetr := x.telRetr + 1,
                          telForced := x.telForced + forced.toNat }

/-- The retry 1 ms after a failure: a second failure loses the stack. -/
def Sys.retryChan (m ch : Nat) (ok : Bool) (s : Sys) : Sys :=
  let x := s.mc m
  if !x.up || x.fail || !x.failed.contains ch then s
  else
    let s := s.setMc m { x with failed := nerase x.failed ch, telRetr := x.telRetr + 1 }
    if ok then s else s.stackLoss m

def execChannelRetraining (m : StackId) (ch : Fin 32) (ok : Bool) (s : State) : Out :=
  onSys (fun s => s.retrainChan m ch ok false) s
def execForcedRetraining (m : StackId) (ch : Fin 32) (ok : Bool) (s : State) : Out :=
  onSys (fun s => s.retrainChan m ch ok true) s
def execRetrainingRetry (m : StackId) (ch : Fin 32) (ok : Bool) (s : State) : Out := onSys (fun s => s.retryChan m ch ok) s

/-! ## Ageing and clocks (R615-R619, R634, R635) -/

/-- STEPS and the frequency ceiling of a cluster. -/
def Pwr.stepsOf (p : Pwr) (c : Nat) : Nat := tget 0 p.steps c
def Pwr.ceiling (p : Pwr) (c : Nat) : Nat := 4600 - 25 * p.stepsOf c

/-- CK_CORE in MHz where no limit lowers it: nominally 4.2 GHz while all 96 cores are active (R4, R5), else what the image's curve
gives (R22) (DESIGN CHOICE, log 68). -/
def Sys.nominalClock (s : Sys) : Nat := if (List.range 96).all (fun k => (s.core k).slot.isSome) then 4200 else s.img.curve

/-- CK_CORE of a cluster in MHz: under the curve and the ceiling that it already follows, the lower of what the power rule
and the temperature rule leave, and not below 1.0 GHz (R22, R634, R635) (DESIGN CHOICE, log 68). -/
def Pwr.clock (p : Pwr) (curve c : Nat) : Nat :=
  let top := min curve (4600 - 25 * tget 0 p.applied c)
  max 1000 (min (top - 100 * p.down) (top - 100 * tget 0 p.cooling (c / 3)))

/-- A cluster whose CK_CORE can still be lowered. -/
def Pwr.canLower (p : Pwr) (curve : Nat) : Bool := (List.range 12).any (fun c => 1000 < p.clock curve c)

/-- The cluster with the largest slowdown. -/
def Pwr.limiting (p : Pwr) : Nat :=
  (List.range 12).foldl (fun b c => if tget 0 p.slow b < tget 0 p.slow c then c else b) 0

/-- The 1 ms measurement of a cluster: SLOW, the next step's fuse, and the estimate of the remaining life. -/
def State.ageing (c slow tj life : Nat) (s : State) : State :=
  let p := s.pwr
  let n := p.stepsOf c
  let blow := n < 7 && (match s.sys.img.ageSteps[n]? with
    | some t => t ≤ slow
    | none => false)
  let q : Pwr := { p with slow := tset p.slow c (sat 1023 slow), steps := if blow then tset p.steps c (n + 1) else p.steps,
                          tjavg := sat 255 tj, lifemo := sat 4095 life }
  { s with pwr := { q with lclus := q.limiting, lifeV := q.lifeV || (life != 0 && life < s.sys.img.lifeThr) } }

def execAgeingMeasurement (c : Cluster) (slow tjavg lifemo : Nat) (s : State) : Out := .next (s.ageing c slow tjavg lifemo)

/-- The cluster's clock follows its new ceiling (R617). -/
def execCeilingLowering (c : Cluster) (s : State) : Out :=
  .next { s with pwr := { s.pwr with applied := tset s.pwr.applied c (s.pwr.stepsOf c) } }

/-- TS_PWR.LIMW, in W. -/
def powerLimit : Nat := 950

/-- The 1 ms power average (R634): above the limit, the clocks that are not yet at 1.0 GHz go down (R22). -/
def execPowerSample (w : BitVec 12) (s : State) : Out :=
  let p := { s.pwr with pkgw := w }
  if powerLimit < w.toNat then
    .next { s with pwr := if p.canLower s.sys.nominalClock then { p with down := p.down + 1, plim := true, throt := sat 4095 (p.throt + 1) }
                          else { p with plim := true } }
  else .next { s with pwr := p }

/-- 10 ms with the average below 97% of the limit: the clocks rise, and none above its ceiling. -/
def execClockRaise (s : State) : Out :=
  let p := s.pwr
  if 100 * p.pkgw.toNat < 97 * powerLimit && p.down != 0 then .next { s with pwr := { p with down := p.down - 1, applied := p.steps } }
  else .next s

/-- The 1 ms step of a quadrant whose hottest junction is at `tj` degrees (R635) (DESIGN CHOICE, log 68). -/
def State.thermal (q tj : Nat) (s : State) : State :=
  let p := s.pwr
  let n := tget 0 p.cooling q
  if 100 ≤ tj then
    if (List.range 3).any (fun i => 1000 < p.clock s.sys.nominalClock (3 * q + i)) then
      { s with pwr := { p with twarn := true, cooling := tset p.cooling q (n + 1), throt := sat 4095 (p.throt + 1) } }
    else { s with pwr := { p with twarn := true } }
  else if tj ≤ 95 && n != 0 then { s with pwr := { p with cooling := tset p.cooling q (n - 1), applied := p.steps } }
  else s

def execThermalStep (q : Quad) (tj : Nat) (s : State) : Out := .next (s.thermal q tj)

/-- Thermal trip (R636): every clock but CK_AON stops. It is the loss of the module of R40, and only power-on ends it, so
what the stopped clocks held is gone: no core, unit, engine or link acts on (DESIGN CHOICE, log 102). -/
def execThermalTrip (s : State) : Out :=
  let x := s.sys
  .next { s with pwr := { s.pwr with ttrip := true, clocksStopped := true },
                 sys := { x with cores := [], camp := [], bus := [], dmas := [], dirs := [],
                                 port := { x.port with role := 3, joining := false, out := [] },
                                 fab := { x.fab with links := [] }, pf := { x.pf with linkUp := false } } }

/-- What R628 and R631 leave of the module: the fuses and the flash outside a running operation are kept, as are the
input pins, the host's memory and the loss monitors; all else is indeterminate (DESIGN CHOICE, log 51). -/
def State.lose (s : State) : State :=
  let t := s.rwStopped
  let x := lostState t.sys.free
  { sys := { x.sys with mem := x.sys.mem.foldl (fun m c => mset m c.1 c.2) [], host := s.sys.host, jdev0 := s.sys.jdev0,
                        jdev1 := s.sys.jdev1, free := t.sys.free + 1,
                        tansy := { x.sys.tansy with retired := s.sys.tansy.retired } },
    master := x.master, boot := x.boot, fuses := s.fuses, flash := t.flash, configs := s.configs, pending := s.pending,
    pwr := { x.pwr with steps := s.pwr.steps,
                        applied := s.pwr.steps.map (fun c => (c.1, min c.2 (tget 0 x.pwr.applied c.1))),
                        pwrgood := s.pwr.pwrgood, rstLow := s.pwr.rstLow, perst := s.pwr.perst,
                        clkloss := s.pwr.clkloss, rail := s.pwr.rail } }

def execClockLoss (s : State) : Out :=
  let t := s.lose
  .next { t with pwr := { t.pwr with clkloss := true } }

def execRailFault (s : State) : Out :=
  if s.pwr.pwrgood then
    let t := s.lose
    .next { t with pwr := { t.pwr with rail := true } }
  else .next s

/-! ## Telemetry (R620-R624) -/

/-- Logical core held by a physical slot: 127 for a slot that holds none. -/
def slotHolds (x : Slot) : Nat :=
  match x.st with
  | .active k => k
  | _ => 127

/-- Entries of a queue of R27 by telemetry instance and class (posting, request, forward, response, maintenance). -/
def queueDepth (j cl : Nat) : Nat :=
  let row : List Nat :=
    if j < 12 then [8, 32, 16, 48, 4] else if j < 24 then [16, 64, 32, 96, 4] else if j < 32 then [0, 64, 0, 64, 2]
    else if j = 32 then [0, 128, 0, 128, 16] else if j < 35 then [0, 64, 0, 64, 4] else if j < 59 then [32, 32, 0, 64, 8]
    else if j = 59 then [0, 16, 0, 16, 4] else [0, 4, 0, 4, 16]
  (row[cl]?).getD 0

/-- The class of a fabric virtual channel (R25, R553). -/
def classOfVc (vc : Nat) : Nat := if vc = 0 then 1 else if vc = 1 then 0 else vc + 1

/-- The fabric virtual channel of a class that has one (R25). -/
def vcOfClass (cl : Nat) : Nat := if cl = 0 then 1 else if cl = 1 then 0 else cl - 1

/-- A class flows in a direction of a crossing, 0 from its first-named domain (R27): forwards go from the mesh to a cluster, and a
memory controller takes requests and gives responses (DESIGN CHOICE, log 68). -/
def queueFlows (j cl dir : Nat) : Bool :=
  queueDepth j cl != 0 && !(j < 12 && cl = 2 && dir = 0) &&
  !(24 ≤ j && j < 32 && ((cl = 1 && dir = 1) || (cl = 3 && dir = 0)))

/-- The first counter of a queue (R624). -/
def queueCounter (j cl dir : Nat) : Nat := 1024 + 32 * j + 6 * cl + 3 * dir

/-- Occupancy and free credits of the queues inside the module and of the links' queues towards the mesh: between two commands
no message stands in them, so the producer holds every credit that R27 gives, but those that a link still owes to its other
end (DESIGN CHOICE, log 68). -/
def Sys.innerQueues (s : Sys) : Tbl Nat :=
  (List.range 64).flatMap (fun j => (List.range 5).flatMap (fun cl => (List.range 2).flatMap (fun dir =>
    let link := 35 ≤ j && j < 59
    if !queueFlows j cl dir || (link && dir = 1) then []
    else
      let owed := if link then ((s.link (j - 35)).owe[vcOfClass cl]?).getD 0 else 0
      [(queueCounter j cl dir, 0), (queueCounter j cl dir + 1, queueDepth j cl - owed)])))

/-- The queue counters of a CQ link from the mesh to the fabric: occupancy, free credits, stalls (R27, R28, R624). -/
def Sys.linkQueues (s : Sys) (l : Nat) : Tbl Nat :=
  let x := s.link l
  (List.range 4).flatMap (fun vc =>
    let i := queueCounter (35 + l) (classOfVc vc) 1
    [(i, (x.egress.filter (fun p => p.vc = vc)).length % w36), (i + 1, (x.credits[vc]?).getD 0), (i + 2, (x.stalls[vc]?).getD 0 % w36)])

/-- The counters whose values the state holds (DESIGN CHOICE, log 68). -/
def Sys.exactCounters (s : Sys) : Tbl Nat :=
  [(0, s.timeUs % w36), (16, s.tansy.divReloads % w36), (17, s.tansy.divFailed % w36), (18, s.tansy.discards % w36)] ++
  (List.range 108).flatMap (fun p => [(128 + 8 * p + 5, slotHolds (s.slot p)), (128 + 8 * p + 6, (s.slot p).drops % w36),
    (128 + 8 * p + 7, (s.slot p).substs % w36)]) ++
  s.innerQueues ++ (List.range 24).flatMap (fun l => s.linkQueues l) ++
  (List.range 8).flatMap (fun m => [(3072 + 32 * m + 3, (s.mc m).telCorr % w36), (3072 + 32 * m + 4, (s.mc m).telUnc % w36),
    (3072 + 32 * m + 5, (s.mc m).telRetr % w36),
    (3072 + 32 * m + 6, (s.mc m).telForced % w36), (3072 + 32 * m + 7, (s.mc m).telLines % w36)]) ++
  (List.range 24).flatMap (fun l => [(3776 + 8 * l + 2, (s.link l).telReplay % w36), (3776 + 8 * l + 4, (s.link l).telStale % w36)])

/-- The table of R624 assigns the counter. -/
def counterUsed (i : Nat) : Bool :=
  i ≤ 13 || (16 ≤ i && i ≤ 18) || (128 ≤ i && i ≤ 991) || (1024 ≤ i && i ≤ 3071 && (i - 1024) % 32 < 30 && queueFlows ((i - 1024) / 32) ((i - 1024) % 32 / 6) ((i - 1024) % 32 % 6 / 3)) ||
  (3072 ≤ i && i ≤ 3327 && (i - 3072) % 32 < 8) || (3328 ≤ i && i ≤ 3583) || (3584 ≤ i && i ≤ 3775) ||
  (3776 ≤ i && i ≤ 3967 && (i - 3776) % 8 < 6) || (3968 ≤ i && i ≤ 3999)

/-- Counter `i` of a sample: exact, or a free value, or 0 where none is assigned (DESIGN CHOICE, log 68). -/
def counterOf (x : Nat × Tbl Nat) (i : Nat) : Nat :=
  match tfind x.2 i with
  | some v => v
  | none => if counterUsed i then (Config.free 36 (x.1 + i)).toNat else 0

/-- The 1 ms strobe. -/
def execTelemetrySample (s : State) : Out :=
  if s.boot.steps.isEmpty || s.pwr.clocksStopped then .next s
  else
    let n := (s.pwr.tmHead + 1) % w36
    .next { s with pwr := { s.pwr with tmHead := n, lapMs := sat 262143 (s.pwr.lapMs + 1),
                                       ring := tset s.pwr.ring (n % 8) (s.sys.free, (5, s.pwr.pkgw.toNat) :: s.sys.exactCounters) },
                   sys := { s.sys with free := s.sys.free + 4096 } }

/-! ## Boundary scan and I3C addresses (R638, R639) -/

/-- The current boundary-scan instruction: 0 BYPASS, 1 SAMPLE/PRELOAD, 2 EXTEST, 3 IDCODE, 4 LANETEST. -/
def bscanTo (n : Nat) (s : State) : Out := .next { s with pwr := { s.pwr with bscan := n } }

def idcodeValue : Nat := 0x19600B47

def execBypass (s : State) : Out := bscanTo 0 s
def execSamplePreload (s : State) : Out := bscanTo 1 s
def execExtest (s : State) : Out := bscanTo 2 s
def execIdcode (s : State) : Out := bscanTo 3 s
def execLanetest (s : State) : Out := bscanTo 4 s
/-- The instruction that acts: EXTEST and LANETEST act as BYPASS while RST_L is high. -/
def Pwr.bscanActs (p : Pwr) : Nat := if (p.bscan = 2 || p.bscan = 4) && !p.rstLow then 0 else p.bscan

/-- The target takes a dynamic address while it has none (DEDUCED, log 69). -/
def takeAddr (a : BitVec 7) (s : State) : Out :=
  if s.boot.steps.contains 1 && s.pwr.i3cAddr.isNone then .next { s with pwr := { s.pwr with i3cAddr := some a } } else .next s

def execSetdasa (addr : BitVec 7) (s : State) : Out := takeAddr addr s
def execEntdaa (addr : BitVec 7) (s : State) : Out := takeAddr addr s

end Sys2Proof.Machine
end

