-- ==== Sys2Proof/Machine/Regs.lean ====
section
/-! DEFINITION. The registers of PF BAR0 and of the VFs' BAR0 as the host and the I3C port reach them (16 R503-R506, R511,
R515, R521; 21 R638): what each slot reads as, what a write does, and the reads that clear. -/

namespace Sys2Proof.Machine

/-! ## Register values -/

/-- HI_CMDSTS and HI_VCMDSTS (DESIGN CHOICE, log 52). -/
def cmdSts (busy : Bool) (op code : Nat) : Nat := mkh [(35, busy.toNat), (29, op % 64), (0, code % 1024)]

/-- HI_FEATERR and HI_VFEATERR. -/
def featErr (v : Bool) (r b : Nat) : Nat := mkh [(35, v.toNat), (8, r), (0, b)]

/-- Register `k` of four that hold a feature set (R511). -/
def featWord (set k : Nat) : Nat := (set >>> (32 * k)) % 2 ^ 32

/-- A set with the 32 bits of register `k` replaced. -/
def featPut (set k value : Nat) : Nat := set - (featWord set k <<< (32 * k)) + ((value % 2 ^ 32) <<< (32 * k))

def State.hiStat (s : State) : Nat :=
  mkh [(26, s.boot.sstat), (25, s.sys.pf.ready.toNat), (24, s.boot.halted.toNat), (23, s.sys.pf.fcomm.toNat),
       (22, s.sys.pf.rwopen.toNat)]

/-- DESIGN CHOICE, log 70. -/
def Pf.errLog (p : Pf) : Nat := mkh [(35, p.logV.toNat), (33, p.logK), (22, p.logF), (0, p.logO)]

/-- The host interface window of the PF (DESIGN CHOICE, log 52). -/
def State.hiReg (s : State) (off : Nat) : Option Nat :=
  let p := s.sys.pf
  if off = 0 then some s.hiStat
  else if off = 8 then some p.errLog
  else if off = 0x10 then some p.cnt
  else if 0x20 ≤ off && off < 0x40 then some (featWord offered ((off - 0x20) / 8))
  else if 0x40 ≤ off && off < 0x60 then some (featWord p.acc ((off - 0x40) / 8))
  else if off = 0x60 then some (featErr p.errV p.errR p.errB)
  else if off = 0x80 then some 0
  else if off = 0x88 then some (cmdSts p.busy p.op p.code)
  else none

/-- The recovery window's registers. -/
def State.rwReg (s : State) (off : Nat) : Option Nat :=
  let p := s.sys.pf
  if off = 0 then some 0
  else if off = 8 then some p.rwaddr
  else if off = 0x10 then
    some (mkh [(35, p.rwbusy.toNat), (34, (s.boot.chosen && s.boot.cv && !s.boot.halted).toNat), (0, p.rwcode)])
  else none

def Sys.pstatReg (s : Sys) (n : Nat) : Nat :=
  let e := s.part n
  mkh [(33, e.st), (32, e.auto.toNat), (22, e.last), (14, e.lostm.toNat)]

/-- SC_LIVELO and SC_LIVEHI: 32 slots from `lo` on. -/
def Sys.liveBits (s : Sys) (lo : Nat) : Nat :=
  (List.range 32).foldl (fun a i => a + ((s.epSlot (lo + i)).live.toNat <<< i)) 0

/-- SC_CFG, loaded with the image. -/
def Sys.scCfg (s : Sys) : Nat :=
  if s.tabs.loaded then
    mkh [(30, s.img.mySlot), (24, s.img.mSlot), (18, s.img.sSlot), (14, s.img.lsize), (0, s.img.shelf.toNat)]
  else 0

def Sys.scStat (s : Sys) : Nat :=
  mkh [(34, s.port.role), (33, s.port.tsync.toNat), (32, s.port.desync.toNat), (16, s.port.epoch.toNat),
       (8, sat 255 s.port.takeovers)]

def Sys.scErrcnt (s : Sys) : Nat := mkh [(24, sat 4095 s.port.parerr), (12, sat 4095 s.port.noans), (0, sat 4095 s.port.stale)]

def Sys.cqLstat (s : Sys) (l : Nat) : Nat :=
  let x : CqLink := tget {} s.fab.links l
  mkh [(33, x.st), (32, (s.tabs.loaded && s.img.links.getLsbD l).toNat), (24, sat 255 x.retrains)]

def Sys.cqLcnt (s : Sys) (l : Nat) : Nat :=
  let x : CqLink := tget {} s.fab.links l
  mkh [(24, sat 4095 x.replay), (12, sat 4095 x.stale), (0, sat 4095 x.naks)]

def Sys.cqPstat (s : Sys) (n : Nat) : Nat :=
  match s.img.pairs.find? (fun p => p.part = n) with
  | none => 0
  | some p =>
    let x : PairSt := tget {} s.fab.pairs n
    mkh [(35, 1), (34, p.standby.toNat), (32, x.st), (31, x.buf.toNat), (0, p.peer % 2 ^ 18)]

def State.ywStat (s : State) : Nat :=
  mkh [(35, s.pwr.ywAlarm.toNat),
       (27, (List.range 8).foldl (fun a m => a + ((s.sys.mc m).inLap.toNat <<< m)) 0), (0, sat 262143 s.pwr.lapMs)]

def Pwr.ageReg (p : Pwr) (c : Nat) : Nat := mkh [(33, p.stepsOf c), (20, p.ceiling c), (10, tget 0 p.slow c)]

def Pwr.lifeReg (p : Pwr) : Nat := mkh [(35, p.lifeV.toNat), (23, p.lifemo), (15, p.tjavg), (11, p.lclus)]

def Pwr.alertReg (p : Pwr) : Nat :=
  mkh [(35, p.ywAlarm.toNat), (34, p.lifeV.toNat), (33, p.twarn.toNat), (32, p.plim.toNat), (31, p.clkloss.toNat),
       (30, p.rail.toNat), (29, p.ttrip.toNat)]

def Pwr.powerReg (p : Pwr) : Nat := mkh [(24, p.pkgw.toNat), (12, powerLimit), (0, sat 4095 p.throt)]

def Boot.bootReg (b : Boot) : Nat :=
  mkh [(26, b.ares), (16, b.bres), (15, b.chosen.toNat), (14, b.cv.toNat), (10, b.warn), (4, b.rej)]

/-- ALERT_L is driven low while a bit of TS_ALERT is set. -/
def Pwr.alertLow (p : Pwr) : Bool := p.alertReg != 0

/-- The Tansy window. -/
def State.tansyReg (s : State) (off : Nat) : Option Nat :=
  let x := s.sys
  let lk (n : Nat) : Option LkEnt := tfind x.tansy.lk n
  if 0x100 ≤ off && off < 0x200 then
    let n := (off - 0x100) / 0x10
    some (match lk n with
      | none => 0
      | some e => if off % 0x10 = 0 then lkEntA e else e.pc.toNat)
  else if off = 0x200 then some (mkh [(35, x.tansy.ovf.toNat), (0, x.tansy.lk.length)])
  else if 0x1000 ≤ off && off < 0x3000 then some (x.pstatReg ((off - 0x1000) / 8))
  else if off = 0x3000 then some s.boot.bootReg
  else if off = 0x3008 then some (mkh [(18, s.boot.readyMs), (0, s.boot.choseMs)])
  else if off = 0x3010 then some s.boot.gena
  else if off = 0x3018 then some s.boot.genb
  else if off = 0x4000 then some x.scCfg
  else if off = 0x4008 then some x.scStat
  else if off = 0x4010 then some x.scErrcnt
  else if off = 0x4018 then some (x.liveBits 0)
  else if off = 0x4020 then some (x.liveBits 32)
  else if 0x5000 ≤ off && off < 0x5180 then
    some (if off % 0x10 = 0 then x.cqLstat ((off - 0x5000) / 0x10) else x.cqLcnt ((off - 0x5000) / 0x10))
  else if 0x6000 ≤ off && off < 0x8000 then some (x.cqPstat ((off - 0x6000) / 8))
  else if off = 0x8000 then some (mkh [(18, s.pwr.lapLast), (0, s.pwr.lapBest)])
  else if off = 0x8008 then some s.ywStat
  else if off = 0x8010 then some (x.img.lapThr % 2 ^ 18)
  else if 0x8100 ≤ off && off < 0x8160 then some (s.pwr.ageReg ((off - 0x8100) / 8))
  else if off = 0x8180 then some s.pwr.lifeReg
  else if off = 0x8200 then some s.pwr.tmHead
  else if off = 0x9000 then some s.pwr.alertReg
  else if off = 0x9008 then some s.pwr.powerReg
  else none

/-- BU_JSTAT of a quadrant (R274-R278) (DEDUCED, log 72). -/
def Sys.jstat (s : Sys) (q : Nat) : Nat :=
  mkh [(35, (!s.j0up && !s.j1up).toNat), (34, s.j1up.toNat), (33, s.j0up.toNat), (24, s.img.rsz % 16),
       (0, ((s.bu q).recs.filter (fun r => !r.durable)).length)]

def Sys.buReg (s : Sys) (off : Nat) : Option Nat :=
  if off < 0x20 then some (s.jstat (off / 8))
  else if off = 0x20 then some (s.alloc.highest / w36)
  else if off = 0x28 then some s.seqlLatch
  else none

/-- CB_STAT, CB_AREA and CB_DROP of a cluster (DEDUCED, log 72). -/
def Sys.cbReg (s : Sys) (off : Nat) : Option Nat :=
  let c := s.campion (off / 0x40)
  if 0x300 ≤ off then none
  else match off % 0x40 with
    | 0x00 =>
      let n (f : Task → Bool) : Nat := (c.tasks.filter (fun t => f t.2)).length
      some (mkh [(23, n (fun t => t.state != 0)), (10, n (fun t => t.state = 1 || t.state = 4)), (0, n (fun t => t.resid.isSome))])
    | 0x08 => some (sat 1048575 c.freeN)
    | 0x10 => some (mkh [(18, sat 262143 c.rcDrop), (0, sat 262143 c.evDrop)])
    | _ => none

/-- The registers of a memory controller. -/
def Sys.mcReg (s : Sys) (off : Nat) : Option Nat :=
  let m := s.mc (off / 0x100)
  if 0x800 ≤ off then none
  else match off % 0x100 with
    | 0x00 => some (mkh [(35, m.up.toNat), (34, m.filld.toNat), (33, m.fail.toNat), (32, m.uev.toNat), (31, m.cev.toNat),
                         (30, m.lost.toNat), (0, sat 65535 m.fillms)])
    | 0x08 => some (mkh [(18, m.ceD), (0, m.ceS)])
    | 0x10 => some (mkh [(18, m.ueN), (0, m.ueP)])
    | 0x18 => some (mkh [(35, m.errV.toNat), (33, m.errKind), (30, m.errSrc), (0, m.errCw)])
    | 0x20 => some m.errSyn.toNat
    | _ => none

/-- The offset in the DMA engine window names a register. -/
def dmaSlot (off : Nat) : Bool :=
  off < 0x8000 && (off % 0x2000 = 0 || off % 0x2000 = 8 || (0x1000 ≤ off % 0x2000 && off % 0x40 < 0x38))

/-- A slot of the telemetry ring; a buffer that no sample has filled reads zero. -/
def Pwr.ringReg (p : Pwr) (off : Nat) : Nat :=
  match tfind p.ring (off / 0x8000) with
  | none => 0
  | some x => counterOf x (off % 0x8000 / 8)

/-- Octet storage of a function: the table and its index. -/
inductive OctStore where
  | staging | msix
  deriving DecidableEq, Repr

def octStore (fn off : Nat) : Option (OctStore × Nat) :=
  if fn = 0 then
    if 0x11000 ≤ off && off < 0x12000 then some (.staging, off - 0x11000)
    else if 0xE0000 ≤ off && off < 0xE0100 then some (.msix, off - 0xE0000)
    else none
  else if 0xA000 ≤ off && off < 0xA080 then some (.msix, off - 0xA000) else none

/-- The octet storage's table. -/
def Sys.octTable (s : Sys) (fn : Nat) : OctStore → Tbl Octet
  | .staging => s.pf.buf
  | .msix => s.msixTable fn

/-- A PF slot, whatever the start-up's progress; none where the slot is reserved. `i3c`: the I3C port reads. -/
def State.pfSlot (s : State) (off : Nat) (i3c : Bool) : Option Nat :=
  if off < 0x10000 then s.hiReg off
  else if off < 0x11000 then s.rwReg (off - 0x10000)
  else if off < 0x12000 then some (leNat ((List.range 8).map (fun i => tget 0 s.sys.pf.buf (off - 0x11000 + i))))
  else if 0x20000 ≤ off && off < 0x30000 then s.tansyReg (off - 0x20000)
  else if 0x30000 ≤ off && off < 0x31000 then s.sys.buReg (off - 0x30000)
  else if 0x31000 ≤ off && off < 0x32000 then s.sys.cbReg (off - 0x31000)
  else if 0x32000 ≤ off && off < 0x33000 then s.sys.mcReg (off - 0x32000)
  else if 0x40000 ≤ off && off < 0x80000 then
    if dmaSlot (off - 0x40000) then some (s.sys.dmaReg ((off - 0x40000) / 0x2000) ((off - 0x40000) % 0x2000)) else none
  else if 0x80000 ≤ off && off < 0xC0000 then some (if i3c || s.sys.pf.set.testBit 1 then s.pwr.ringReg (off - 0x80000) else 0)
  else if 0xE0000 ≤ off && off < 0xE0100 then some (leNat ((List.range 8).map (fun i => msixOct s.sys.pf.msixT (off - 0xE0000 + i))))
  else if off = 0xE8000 then some (s.sys.pba 0)
  else none

/-- HI_VSTAT of the VF of P`v` (DEDUCED, log 71). -/
def Sys.vstat (s : Sys) (v : Nat) : Nat :=
  mkh [(35, (s.pf.ready && s.pf.fcomm).toNat), (34, (s.vf v).fcomm.toNat), (31, (s.part v).st),
       (27, if (s.part v).st = 0 then 0 else (s.part v).nq),
       (19, (List.range 8).foldl (fun a q => a + ((s.qp v q).en.toNat <<< q)) 0), (0, v)]

/-- HI_QSTAT. -/
def Qp.stat (x : Qp) : Nat := mkh [(34, x.st), (24, x.code), (0, x.stray)]

def Qp.reg (x : Qp) (off : Nat) : Option Nat :=
  match off with
  | 0x00 => some x.sqbase.toNat
  | 0x08 => some x.cqbase.toNat
  | 0x10 => some x.qcfg.toNat
  | 0x18 => some x.sqtail.toNat
  | 0x20 => some x.cqhead.toNat
  | 0x28 => some x.stat
  | _ => none

/-- A slot of a VF's BAR0. -/
def Sys.vfSlot (s : Sys) (v off : Nat) : Option Nat :=
  let x := s.vf v
  if off = 0 then some (s.vstat v)
  else if 0x20 ≤ off && off < 0x40 then some (featWord s.vfAvail ((off - 0x20) / 8))
  else if 0x40 ≤ off && off < 0x60 then some (featWord x.acc ((off - 0x40) / 8))
  else if off = 0x60 then some (featErr x.errV x.errR x.errB)
  else if off = 0x80 then some 0
  else if off = 0x88 then some (cmdSts x.busy x.op x.code)
  else if 0x1000 ≤ off && off < 0x9000 then
    if s.qpOffered v (off / 0x1000 - 1) then (s.qp v (off / 0x1000 - 1)).reg (off % 0x1000) else none
  else if 0xA000 ≤ off && off < 0xA080 then some (leNat ((List.range 8).map (fun i => msixOct x.msixT (off - 0xA000 + i))))
  else if off = 0xB000 then some (s.pba (v + 1))
  else none

/-- What holds a defined value before READY (R506) (DEDUCED, log 71). -/
def earlySlot (fn off : Nat) : Bool := (fn = 0 && (off < 0x18 || (0x10000 ≤ off && off < 0x12000))) || (octStore fn off).isSome

/-- The value that an aligned 64-bit host read of a slot returns; a reserved slot reads as zero (DESIGN CHOICE, log 75). -/
def State.hostRead (s : State) (fn off : Nat) : Nat :=
  if !s.sys.pf.ready && !earlySlot fn off then 0
  else if (octStore fn off).isSome then (if fn = 0 then s.pfSlot off false else s.sys.vfSlot (fn - 1) off).getD 0
  else ((if fn = 0 then s.pfSlot off false else s.sys.vfSlot (fn - 1) off).getD 0) % w36

/-- The value of an aligned 32-bit host read: bytes 0-3 of a slot give bits [31:0], bytes 4-7 give bits [35:32] in [3:0]; octet
storage gives its octets (R504). No RC field clears. -/
def State.hostRead32 (s : State) (fn off : Nat) : Nat := (s.hostRead fn (off - off % 8) >>> (8 * (off % 8))) % 2 ^ 32

/-- The values of an aligned read of 16 to 64 bytes: those of 64-bit reads of its slots, in ascending order (R504). -/
def State.hostReadWide (s : State) (fn off width : Nat) : List Nat :=
  (List.range (width / 8)).map (fun i => s.hostRead fn (off + 8 * i))

/-! ## Writes -/

/-- W1C bits of a memory controller's registers (DESIGN CHOICE, log 70). -/
def Sys.mcWrite (off value : Nat) (s : Sys) : Sys :=
  let n := off / 0x100
  let m := s.mc n
  match off % 0x100 with
  | 0x00 => s.setMc n { m with uev := m.uev && !value.testBit 32, cev := m.cev && !value.testBit 31,
                               lost := m.lost && !value.testBit 30 }
  | 0x18 => if value.testBit 35 then s.setMc n { m with errV := false, errSyn := 0 } else s
  | _ => s

/-- W1C bits of the Tansy window (TS_LKENTA, TS_LKSTAT, SC_STAT, YW_STAT, TS_LIFE, TS_ALERT); those of the lockup map are
ignored before READY (R509). -/
def State.tansyWrite (off value : Nat) (s : State) : State :=
  if 0x100 ≤ off && off < 0x200 then
    if off % 0x10 = 0 && value.testBit 35 && s.sys.pf.ready then s.mod (fun x => x.clearLockup ((off - 0x100) / 0x10)) else s
  else if off = 0x200 then (if value.testBit 35 && s.sys.pf.ready then s.mod Sys.clearOvf else s)
  else if off = 0x4008 then
    s.mod (fun x => { x with port := { x.port with desync := x.port.desync && !value.testBit 32 } })
  else if off = 0x8008 then { s with pwr := { s.pwr with ywAlarm := s.pwr.ywAlarm && !value.testBit 35 } }
  else if off = 0x8180 then { s with pwr := { s.pwr with lifeV := s.pwr.lifeV && !value.testBit 35 } }
  else if off = 0x9000 then
    { s with pwr := { s.pwr with twarn := s.pwr.twarn && !value.testBit 33, plim := s.pwr.plim && !value.testBit 32,
                                 clkloss := s.pwr.clkloss && !value.testBit 31, rail := s.pwr.rail && !value.testBit 30 } }
  else s

/-- A write of HI_RWOP. -/
def State.rwOpWrite (value : Nat) (s : State) : State :=
  let n := hfld value 33 21
  match hfld value 35 34 with
  | 0 => s.rwOp .read n
  | 1 => s.flashFails.2.rwOp (.erase s.flashFails.1) 0
  | 2 => s.flashFails.2.rwOp (.program s.flashFails.1) n
  | _ => s.rwOp .verify n

/-- A write of a register of the recovery window. -/
def State.rwWrite (off value : Nat) (s : State) : State :=
  if off = 0 then s.rwOpWrite value
  else if off = 8 then s.mod (fun x => { x with pf := { x.pf with rwaddr := value % 2 ^ 31 } })
  else s

/-- A write of a register of the host interface window (DEDUCED, log 71). -/
def State.hiWrite (off value : Nat) (s : State) : State :=
  if off = 8 then
    s.mod (fun x => { x with pf := { x.pf with logV := x.pf.logV && !value.testBit 35 } })
  else if off = 0x80 then
    s.mod (fun x => x.pfCommand (hfld value 35 30) (hfld value 29 10 != 0) (hfld value 9 0) s.boot.halted)
  else if !s.sys.pf.ready then s
  else if 0x40 ≤ off && off < 0x60 then
    s.mod (fun x => { x with pf := { x.pf with acc := featPut x.pf.acc ((off - 0x40) / 8) value } })
  else s

/-- A write of a register of queue pair `q`; bases change only while EN is 0. -/
def Sys.qpRegWrite (v q off value : Nat) (s : Sys) : Sys :=
  match off with
  | 0x00 => s.qpWrite v q off (fun s => if (s.qp v q).en then s else s.setQp v q { s.qp v q with sqbase := BitVec.ofNat 36 value })
  | 0x08 => s.qpWrite v q off (fun s => if (s.qp v q).en then s else s.setQp v q { s.qp v q with cqbase := BitVec.ofNat 36 value })
  | 0x10 => s.qcfgWrite v q value
  | 0x18 => s.doorbell v q false value
  | 0x20 => s.doorbell v q true value
  | _ => s

/-- A write of a register of a VF. -/
def Sys.vfWrite (v off value : Nat) (s : Sys) : Sys :=
  if off = 0x80 then s.vfCommand v (hfld value 35 30) (hfld value 29 10 != 0) (hfld value 9 0)
  else if !s.pf.ready then s
  else if 0x40 ≤ off && off < 0x60 then s.setVf v { s.vf v with acc := featPut (s.vf v).acc ((off - 0x40) / 8) value }
  else if 0x1000 ≤ off && off < 0x9000 then s.qpRegWrite v (off / 0x1000 - 1) (off % 0x1000) value
  else s

/-- An aligned 64-bit write of a PF register that is not reserved. -/
def State.pfWrite (off value : Nat) (s : State) : State :=
  if off < 0x10000 then s.hiWrite off value
  else if off < 0x11000 then s.rwWrite (off - 0x10000) value
  else if !s.sys.pf.ready then s
  else if 0x20000 ≤ off && off < 0x30000 then s.tansyWrite (off - 0x20000) value
  else if 0x32000 ≤ off && off < 0x33000 then s.mod (fun x => x.mcWrite (off - 0x32000) value)
  else s

/-- An aligned 64-bit write of a slot: only its low 36 bits count, and a reserved slot is logged as KIND 2. -/
def State.slotWrite (fn off value : Nat) (s : State) : State :=
  let v := value % w36
  if fn = 0 then
    if (s.pfSlot off false).isNone then s.mod (fun x => x.hostErr 2 0 off) else s.pfWrite off v
  else if (s.sys.vfSlot (fn - 1) off).isNone then s.mod (fun x => x.hostErr 2 fn off)
  else s.mod (fun x => x.vfWrite (fn - 1) off v)

/-- `n` octets of `value`, the least significant first, into a table from `a` on. -/
def octsPut (t : Tbl Octet) (a n value : Nat) : Tbl Octet :=
  (List.range n).foldl (fun (t : Tbl Octet) i => tset t (a + i) (BitVec.ofNat 8 (value >>> (8 * i)))) t

/-- A write of octet storage. -/
def Sys.octWrite (fn : Nat) (k : OctStore) (a n value : Nat) (s : Sys) : Sys :=
  let t := octsPut (s.octTable fn k) a n value
  match k with
  | .staging => { s with pf := { s.pf with buf := t } }
  | .msix =>
    if fn = 0 then Sys.msixMoved { s with pf := { s.pf with msixT := t } }
    else (s.setVf (fn - 1) { s.vf (fn - 1) with msixT := t }).msixMoved

/-- The access lies in the function's BAR0: 1 MiB for the PF, 64 KiB for each of 1,024 VFs (R503) (DESIGN CHOICE, log 70). -/
def inBar (fn off : Nat) : Bool := if fn = 0 then off < 0x100000 else fn ≤ 1024 && off < 0x10000

/-- A naturally aligned access of 1, 2, 4, …, 64 octets (DESIGN CHOICE, log 70). -/
def aligned (off width : Nat) : Bool :=
  (width = 1 || width = 2 || width = 4 || width = 8 || width = 16 || width = 32 || width = 64) && off % width = 0

/-- A host write of `width` octets (R504) (DESIGN CHOICE, log 70). -/
def State.hostWrite (fn off width value : Nat) (s : State) : State :=
  if !inBar fn off then s
  else if !aligned off width then s.mod (fun x => x.hostErr 1 fn off)
  else match octStore fn off with
    | some (k, a) => s.mod (fun x => x.octWrite fn k a width value)
    | none =>
      if width < 8 then s.mod (fun x => x.hostErr 0 fn off)
      else (List.range (width / 8)).foldl (fun (s : State) i => s.slotWrite fn (off + 8 * i) (value >>> (64 * i))) s

def execRegisterWrite (fn off width value : Nat) (s : State) : Out := .next (s.hostWrite fn off width value)

/-! ## Reads that clear (R12, R504) -/

def Sys.clearErrcnt (s : Sys) : Sys := { s with pf := { s.pf with cnt := 0 } }
def Sys.clearCecnt (m : Nat) (s : Sys) : Sys := s.setMc m { s.mc m with ceD := 0, ceS := 0 }
def Sys.clearUecnt (m : Nat) (s : Sys) : Sys := s.setMc m { s.mc m with ueN := 0, ueP := 0 }
def Sys.clearScErr (s : Sys) : Sys := { s with port := { s.port with parerr := 0, noans := 0, stale := 0 } }
def Sys.clearLcnt (l : Nat) (s : Sys) : Sys :=
  let x : CqLink := tget {} s.fab.links l
  { s with fab := { s.fab with links := tset s.fab.links l { x with replay := 0, stale := 0, naks := 0 } } }
def Sys.clearDrop (c : Nat) (s : Sys) : Sys := s.setCampion c { s.campion c with evDrop := 0, rcDrop := 0 }
def Sys.clearStray (v q : Nat) (s : Sys) : Sys :=
  if s.qpOffered v q then s.setQp v q { s.qp v q with stray := 0 } else s

/-- Before READY these registers read as zero, and nothing clears (R506) (DEDUCED, log 71). -/
def readClears (f : Sys → Sys) (s : State) : Out := onSys (fun x => if x.pf.ready then f x else x) s

/-- What an aligned 64-bit host read of a slot clears or latches. -/
def Sys.slotReads (fn off : Nat) (s : Sys) : Sys :=
  if fn = 0 then
    if off = 0x10 then s.clearErrcnt
    else if !s.pf.ready then s
    else if off = 0x24010 then s.clearScErr
    else if 0x25000 ≤ off && off < 0x25180 && off % 0x10 = 8 then s.clearLcnt ((off - 0x25000) / 0x10)
    else if off = 0x30020 then { s with seqlLatch := s.alloc.highest % w36 }
    else if 0x31000 ≤ off && off < 0x31300 && off % 0x40 = 0x10 then s.clearDrop ((off - 0x31000) / 0x40)
    else if 0x32000 ≤ off && off < 0x32800 && off % 0x100 = 8 then s.clearCecnt ((off - 0x32000) / 0x100)
    else if 0x32000 ≤ off && off < 0x32800 && off % 0x100 = 0x10 then s.clearUecnt ((off - 0x32000) / 0x100)
    else s
  else if s.pf.ready && 0x1000 ≤ off && off < 0x9000 && off % 0x1000 = 0x28 then s.clearStray (fn - 1) (off / 0x1000 - 1)
  else s

/-- A host read other than one of a slot's 8 bytes: narrower than 32 bits or not naturally aligned, outside octet storage, it returns
zero and is logged as KIND 1; an aligned one of 16 to 64 bytes reads each of its slots (R504). -/
def execNarrowRead (fn off width : Nat) (s : State) : Out :=
  if !inBar fn off then .next s
  else if aligned off width && (4 ≤ width || (octStore fn off).isSome) then
    .next (if 16 ≤ width then s.mod (fun x => (List.range (width / 8)).foldl (fun (x : Sys) i => x.slotReads fn (off + 8 * i)) x) else s)
  else .next (s.mod (fun x => x.hostErr 1 fn off))

def execHiErrcntRead (s : State) : Out := onSys Sys.clearErrcnt s
def execMcCecntRead (m : StackId) (s : State) : Out := readClears (fun s => s.clearCecnt m) s
def execMcUecntRead (m : StackId) (s : State) : Out := readClears (fun s => s.clearUecnt m) s
def execScErrcntRead (s : State) : Out := readClears Sys.clearScErr s
def execCqLcntRead (l : Link) (s : State) : Out := readClears (fun s => s.clearLcnt l) s
def execCbDropRead (c : Cluster) (s : State) : Out := readClears (fun s => s.clearDrop c) s
def execHiQstatRead (v : PartId) (qp : Fin 8) (s : State) : Out := readClears (fun s => s.clearStray v qp) s

/-! ## The I3C port (R638) -/

/-- The I3C port reaches the offset: the recovery window, the Tansy window, the telemetry ring, and for reads the host
interface window (DEDUCED, log 73). -/
def i3cReach (off : Nat) (write : Bool) : Bool :=
  (0x10000 ≤ off && off < 0x12000) || (0x20000 ≤ off && off < 0x30000) || (0x80000 ≤ off && off < 0xC0000) ||
  (!write && off < 0x10000)

/-- RC fields that an aligned 64-bit I3C read clears (DEDUCED, log 73). -/
def Sys.i3cClears (off : Nat) (s : Sys) : Sys :=
  if off = 0x10 then s.clearErrcnt
  else if off = 0x24010 then s.clearScErr
  else if 0x25000 ≤ off && off < 0x25180 && off % 0x10 = 8 then s.clearLcnt ((off - 0x25000) / 0x10)
  else s

/-- Command 0x01: the slot's value is what the next read of the port returns. -/
def execI3cRead (off : Nat) (s : State) : Out :=
  let o := off % 2 ^ 20
  let put (v : Nat) (s : State) : State := { s with pwr := { s.pwr with i3cData := v } }
  if !s.boot.steps.contains 1 then .next s
  else if !i3cReach o false then .next (put 0 s)
  else if o % 8 != 0 then .next (put 0 (s.mod (fun x => x.hostErr 1 0 o)))
  else .next (put ((s.pfSlot o true).getD 0) (s.mod (fun x => x.i3cClears o)))

/-- Command 0x02. -/
def execI3cWrite (off value : Nat) (s : State) : Out :=
  let o := off % 2 ^ 20
  if !s.boot.steps.contains 1 || !i3cReach o true then .next s
  else if o % 8 != 0 then .next (s.mod (fun x => x.hostErr 1 0 o))
  else if 0x11000 ≤ o && o < 0x12000 then .next (s.mod (fun x => x.octWrite 0 .staging (o - 0x11000) 8 value))
  else if (s.pfSlot o true).isNone then .next (s.mod (fun x => x.hostErr 2 0 o))
  else if o < 0x20000 then .next (s.rwWrite (o - 0x10000) (value % w36))
  else if o < 0x30000 then .next (s.tansyWrite (o - 0x20000) (value % w36))
  else .next s

end Sys2Proof.Machine
end

