-- ==== Sys2Proof/Machine/Seal.lean ====
section
/-! DEFINITION. The seal unit, CP1 (10 R354-R356): the common step, SHA-384 and AES-256-GCM. The unnamed syllables of a
state area hold the unit's working state, which software may not read a meaning into: their octets are free values, and
the working state itself stands in `Sys.seals`. -/

namespace Sys2Proof.Machine

def cpOperand {α : Type} : M α := raise 1 6 0 0

/-- First working syllable of a state area: 48 for SHA-384, 29 for GCM (R354) (DESIGN CHOICE, log 44). -/
def workFrom (gcm : Bool) : Nat := if gcm then 29 else 48

def freeOctets : Nat → Sys → List Octet × Sys
  | 0, s => ([], s)
  | n + 1, s =>
    let f := s.fresh 8
    let r := freeOctets n f.2
    (f.1 :: r.1, r.2)

/-- DESIGN CHOICE, log 44. -/
def freshOctets (n : Nat) : M (List Octet) := do
  let r := freeOctets n (← get)
  set r.2
  pure r.1

/-- What a step does: the working state it leaves, octets for the start of the area, and the data written back. -/
structure SealOut where
  st   : SealSt
  put  : List Octet := []
  data : Option (List Octet) := none
  drop : Bool := false

/-- A CP1 instruction, which the microcode runs (R304, R320): its destination is the state area, and the data of a step that
works in place. -/
def sealInstr (a : Issue) (i : Instr) (rd ra rb : Reg) (inPlace : Bool) (body : M Unit) (s : State) : Out :=
  let dst (s : Sys) : List (Nat × Nat) :=
    let x := s.ctx a.core
    ((x.rdG rb).toNat, 128) :: (if inPlace then [((x.rdG ra).toNat, min (x.rdG rd).toNat 128)] else [])
  onSys (insn a i 4 true (some (microDst dst)) (seq body)) s

/-- The record that stands for an area, marked when software changed its working part. -/
def Sys.sealRec (s : Sys) (key : Nat) (gcm : Bool) (area : List Octet) : Option SealSt :=
  match tfind s.seals key with
  | some r => if r.gcm = gcm then some { r with bad := r.bad || area.drop (workFrom gcm) != r.snap } else none
  | none => none

/-- A step of the unit (R354, R355): the world, the state area's alignment, the count, the order, the data. `pre` says
whether the step is allowed for the working state and the area; `dataAcc` is 0, 2 (read) or 3 (in place)
(DESIGN CHOICE, log 45). -/
def sealStep (a : Issue) (rd ra rb : Reg) (gcm : Bool) (cyc lo hi dataAcc : Nat)
    (pre : Sys → Option SealSt → List Octet → Nat → Bool)
    (act : Sys → Option SealSt → List Octet → List Octet → M SealOut) : M Unit := do
  let k := a.core.val
  let x ← ctxM k
  if !x.custody then privileged
  let cnt := (← rG k rd).toNat
  let va := (← rG k rb).toNat
  let da := (← rG k ra).toNat
  if va % 64 != 0 then misaligned 3 va
  if cnt < lo || hi < cnt then cpOperand
  let st ← spanRw k va 128
  let area := (← st.read k).map octet
  let s ← get
  let key := (st.pieces.head?.map (fun p => p.1)).getD 0
  let wk := s.sealRec key gcm area
  if !pre s wk area cnt then cpOperand
  let n := if dataAcc = 0 then 0 else cnt
  let dsp ← if dataAcc = 3 then spanRw k da n else spanXl k 2 da n
  let data := (← dsp.read k).map octet
  st.ready k
  if dataAcc = 3 then dsp.ready k
  let o ← act s wk area data
  match o.data with
  | some d => dsp.writeOctets k d
  | none => pure ()
  let w ← freshOctets (128 - workFrom gcm)
  let keep := (area.take (workFrom gcm)).drop o.put.length
  st.writeOctets k (o.put ++ keep ++ w)
  upd (fun s => { s with seals := if o.drop then terase s.seals key else tset s.seals key { o.st with snap := w } })
  tick k cyc
  wG k rd 0

/-! ## SHA-384 -/

def shaPre : Sys → Option SealSt → List Octet → Nat → Bool := fun _ _ _ _ => true

/-- A SHA computation that no SHINIT began has no stated result (DESIGN CHOICE, logs 44 and 45). -/
def shaOf (r : Option SealSt) : SealSt := r.getD { gcm := false, bad := true }

def execShinit (a : Issue) (rd ra rb : Reg) (s : State) : Out :=
  sealInstr a (.shinit a rd ra rb) rd ra rb false (sealStep a rd ra rb false 20 0 0 0 shaPre
    (fun _ _ _ _ => pure { st := { gcm := false, hash := shaInit } })) s

def execShstep (a : Issue) (rd ra rb : Reg) (s : State) : Out :=
  sealInstr a (.shstep a rd ra rb) rd ra rb false (sealStep a rd ra rb false 40 128 128 2 shaPre
    (fun _ r _ d => let r := shaOf r; pure { st := { r with hash := shaBlock r.hash d, dat := r.dat + 128 } })) s

def execShfin (a : Issue) (rd ra rb : Reg) (s : State) : Out :=
  sealInstr a (.shfin a rd ra rb) rd ra rb false (sealStep a rd ra rb false 80 0 127 2 shaPre
    (fun _ r _ d => do
      let r := shaOf r
      let dg ← if r.bad then freshOctets 48 else pure (shaFinish r.hash d (r.dat + d.length))
      pure { st := r, put := dg, drop := true })) s

/-! ## AES-256-GCM -/

/-- DESIGN CHOICE, log 45. -/
def keySlot (area : List Octet) : Nat := ((area[28]?).getD 0).toNat

def execGinit (a : Issue) (rd ra rb : Reg) (s : State) : Out :=
  sealInstr a (.ginit a rd ra rb) rd ra rb false (sealStep a rd ra rb true 30 0 0 0
    (fun s _ area _ => keySlot area ≤ 15 && (tfind s.tabs.keys (keySlot area)).isSome)
    (fun s _ area _ => pure { st := { gcm := true, key := tget [] s.tabs.keys (keySlot area),
                                      iv := (area.drop 16).take 12 } })) s

/-- DESIGN CHOICE, logs 44 and 45. -/
def gcmOf (r : Option SealSt) : SealSt := r.getD { gcm := true, bad := true }

/-- GHASH over one step's octets. -/
def gcmAbsorb (r : SealSt) (l : List Octet) : BitVec 128 := ghash (gcmH r.key) 9 r.y l

def execGaad (a : Issue) (rd ra rb : Reg) (s : State) : Out :=
  sealInstr a (.gaad a rd ra rb) rd ra rb false (sealStep a rd ra rb true 24 1 128 2
    (fun _ r _ _ => match r with
      | some r => r.phase ≤ 1
      | none => false)
    (fun _ r _ d =>
      let r := gcmOf r
      pure { st := { r with y := gcmAbsorb r d, aad := r.aad + d.length, phase := if d.length % 16 = 0 then 1 else 2 } })) s

def dataPre : Sys → Option SealSt → List Octet → Nat → Bool := fun _ r _ _ =>
  match r with
  | some r => r.phase ≤ 3
  | none => false

/-- The working state after a data step that absorbed the ciphertext `c`. -/
def gcmData (r : SealSt) (c : List Octet) : SealSt :=
  { r with y := gcmAbsorb r c, dat := r.dat + c.length, phase := if c.length % 16 = 0 then 3 else 4 }

/-- The text under the key stream, from the octets already done on. -/
def gcmText (r : SealSt) (d : List Octet) : List Octet := gcmCrypt r.key r.iv 9 (2 + r.dat / 16) d

def execGenc (a : Issue) (rd ra rb : Reg) (s : State) : Out :=
  sealInstr a (.genc a rd ra rb) rd ra rb true (sealStep a rd ra rb true 24 1 128 3 dataPre
    (fun _ r _ d => do
      let r := gcmOf r
      let c ← if r.bad then freshOctets d.length else pure (gcmText r d)
      pure { st := gcmData r c, data := some c })) s

def execGdec (a : Issue) (rd ra rb : Reg) (s : State) : Out :=
  sealInstr a (.gdec a rd ra rb) rd ra rb true (sealStep a rd ra rb true 24 1 128 3 dataPre
    (fun _ r _ d => do
      let r := gcmOf r
      let p ← if r.bad then freshOctets d.length else pure (gcmText r d)
      pure { st := gcmData r d, data := some p })) s

def execGfin (a : Issue) (rd ra rb : Reg) (s : State) : Out :=
  sealInstr a (.gfin a rd ra rb) rd ra rb false (sealStep a rd ra rb true 30 0 0 0
    (fun _ r _ _ => match r with
      | some r => r.phase ≤ 4
      | none => false)
    (fun _ r _ _ => do
      let r := gcmOf r
      let t ← if r.bad then freshOctets 16 else pure (gcmTag r.key r.iv r.y r.aad r.dat)
      pure { st := { r with phase := 5 }, put := t })) s

end Sys2Proof.Machine
end

