-- ==== Sys2Proof/Machine/Strings.lean ====
section
/-! DEFINITION. The string instructions (07 R211-R247): the common driver, steps and safe points, MVS, MVF, TRS, SCN,
CNV and EDIT, and the code-page unit of CP2 (R239). -/

namespace Sys2Proof.Machine

def tableUnavailable {α : Type} : M α := raise 8 1 0 0
def stringSpec {α : Type} : M α := raise 8 2 0 0
def stringData {α : Type} (a : Nat) : M α := raise 8 3 0 (a % w36)

/-! ## G1 (R211-R216) -/

def g1MM (g : Word) : Bool := kbit g 0
def g1F (g : Word) : Bool := kbit g 1
/-- Units that may still run: LEN or BUDGET. -/
def g1Rem (g : Word) : Nat := if g1MM g then fld g 12 35 else fld g 1 35
/-- R215 and R216: the instruction completes at once. -/
def g1AtOnce (g : Word) : Bool := if g1MM g then kbit g 2 || kbit g 3 else fld g 1 35 = 0
/-- What a unit of `n` consumed syllables does to G1. -/
def g1Count (g : Word) (n : Nat) : Word :=
  if g1MM g then setBit (setFld g 12 35 (fld g 12 35 - n)) 1 false else setFld g 1 35 (fld g 1 35 - n)

/-! ## The driver loop (R217-R222) -/

/-- A unit's work: the syllables it consumed and the loop's new state, or none when it ends the instruction. -/
abbrev StrUnit := Loop → M (Option (Nat × Loop))

/-- A string instruction: its field driver (2 or 3, 0 for none), its steps, and its unit. -/
structure StrOp where
  drv  : Nat
  plan : Loop → Nat → Nat × Nat
  unit : StrUnit
  move : Bool := false
  scan : Bool := false

/-- How an execution ends: completed, stopped by a unit, or stopped at a safe point. -/
inductive StrEnd where
  | done
  | stop (st : Stop)
  | safe (st : Stop)
  deriving DecidableEq, Repr

/-- Runs `m`; when it stops, the registers are as before it. -/
def guarded {α : Type} (k : Nat) (m : M α) : M (Except Stop α) := do
  let s ← get
  tryCatch (do
    let v ← m
    pure (.ok v)) (fun st => do
      upd (fun s' => Sys.undo k s s')
      pure (.error st))

/-- The tests at the head of the driver loop: true when the instruction completes. -/
def drvExit (k drv : Nat) (l : Loop) : M Bool := do
  let g ← rG k 1
  if g1MM g then
    let m ← if g1F g || drv = 0 then pure false
      else do
        let y ← readSpan k (if drv = 2 then l.g2 else l.g3) 1
        pure (mark (y.headD 0))
    if m then
      wG k 1 (setBit g 2 true)
      pure true
    else if fld g 12 35 = 0 then
      wG k 1 (setBit g 3 true)
      pure true
    else pure false
  else pure (fld g 1 35 = 0)

/-- One pass of the loop: none when the instruction completes. -/
def drvPass (k : Nat) (op : StrOp) (l : Loop) : M (Option Loop) := do
  if ← drvExit k op.drv l then pure none
  else
    match ← op.unit l with
    | none => pure none
    | some (n, l) =>
      let g ← rG k 1
      wG k 1 (g1Count g n)
      wG k 2 (BitVec.ofNat 36 l.g2)
      wG k 3 (BitVec.ofNat 36 l.g3)
      pure (some { l with units := l.units + 1 })

/-- The units of one step (DEDUCED, log 35). -/
def strStep (k : Nat) (op : StrOp) : Nat → Loop → M (Loop × Option StrEnd)
  | 0, l => pure (l, none)
  | n + 1, l => do
    match ← guarded k (drvPass k op l) with
    | .error st => pure (l, some (.stop st))
    | .ok none => pure (l, some .done)
    | .ok (some l) => strStep k op n l

/-- A full 32-syllable body step of a move clears the poison of the half-line it wrote (R445). -/
def bodyStore (k va : Nat) : M Unit := do
  let s ← get
  let x := s.ctx k
  let r ← guarded k (xlate k (s.bankOf k) x x.status 3 va false)
  match r with
  | .ok p => if p.pa < memSize then upd (fun s => s.storeSpan k true p.pa (s.rd p.pa 32))
  | .error _ => pure ()

/-- Steps until the instruction completes, stops, or is stopped at a safe point; `cut` is the safe point at which a failure
of the microcode store cuts it off (DEDUCED, log 35). -/
def strLoop (a : Issue) (op : StrOp) (cut : Option Nat) : Nat → Loop → M (Loop × StrEnd)
  | 0, l => pure (l, .done)
  | fuel + 1, l => do
    let k := a.core.val
    let g ← rG k 1
    let p := op.plan l (g1Rem g)
    let l := { l with phase := p.2 }
    let r ← strStep k op (if g1Rem g = 0 then 1 else p.1) l
    let l' := r.1
    let g' ← rG k 1
    if l.units < l'.units || (p.1 = 0 && g1Rem g != 0) || (op.scan && r.2 = some .done && !g1AtOnce g') then tick k 1
    if op.move && p.1 = 32 && l'.units = l.units + 32 && l.g3 % 32 = 0 then bodyStore k l.g3
    match r.2 with
    | some e => pure (l', e)
    | none =>
      if l'.units / 64 = l.units / 64 then strLoop a op cut fuel l'
      else
        match ← guarded k (drvExit k op.drv l') with
        | .error st => pure (l', .stop st)
        | .ok true => pure (l', .done)
        | .ok false =>
          let l' := { l' with safe := l'.safe + 1 }
          match ← safePoint a l'.safe with
          | some st => pure (l', .safe st)
          | none => if cut = some l'.safe then pure (l', .safe .irq) else strLoop a op cut fuel l'

/-- Octets that R225 makes indeterminate. -/
def loseOctets (l : List Nat) : M Unit :=
  upd (fun s => l.foldl (fun s a =>
    let f := s.fresh 8
    f.2.put a (octetsOver (f.2.rd a 1) [f.1])) s)

/-- The registers G1-G4. -/
def Ctx.g14 (x : Ctx) : List Word := [x.rdG 1, x.rdG 2, x.rdG 3, x.rdG 4]

/-- The instruction that waited for a locked line and is at the PC again, where it goes on (R644). -/
def Sys.strHeld (s : Sys) (k : Nat) : Option StrHold :=
  let x := s.ctx k
  (s.core k).strHold.filter (fun h => h.task = x.taskid && h.pc = x.pc && h.gs = x.g14)

/-- An execution from loop state `l` on, over the table `tbl`. One that meets a locked line keeps the units done, and waits
before the next (R644). -/
def strRun (a : Issue) (op : StrOp) (cut : Option Nat) (tbl : List Syl) (l : Loop) : M Unit := do
  let k := a.core.val
  let x ← ctxM k
  let r ← strLoop a op cut (g1Rem (x.rdG 1) + 3) l
  loseOctets r.1.ind
  match r.2 with
  | .done => if g1MM (x.rdG 1) then tick k 1
  | .stop (.exc e _) => throw (.exc e true)
  | .stop .stay =>
    upd (fun s =>
      let h : StrHold := { task := (s.ctx k).taskid, pc := (s.ctx k).pc, gs := (s.ctx k).g14, loop := r.1, tbl := tbl }
      s.modCore k (fun c => { c with strHold := some h }))
    throw .stay
  | .stop st => throw st
  | .safe st => throw st

/-- R247 step 3 for the fields that every string instruction shares. -/
def g1Check (k : Nat) : M Unit := do
  let g ← rG k 1
  if g1MM g && fld g 4 11 != 0 then stringSpec

/-- The body of a string instruction: its checks of steps 2 and 3, completion at once, its start, which gives the table
it reads whole and the source octets it has read, and its run; one that waited for a locked line goes on without a new start. -/
def strBody (a : Issue) (checks : M Unit) (start : M (List Syl × List (Nat × Octet))) (op : List Syl → StrOp)
    (cut : Option Nat) : M Unit := do
  let k := a.core.val
  checks
  let g ← rG k 1
  if !g1AtOnce g then
    drain k
    let s ← get
    upd (fun s => s.modCore k (fun c => { c with strHold := none }))
    match s.strHeld k with
    | some h => strRun a (op h.tbl) cut h.tbl h.loop
    | none =>
      let r ← start
      let x ← ctxM k
      strRun a (op r.1) cut r.1 { g2 := (x.rdG 2).toNat, g3 := (x.rdG 3).toNat, src := r.2 }

/-- The state after a part of an instruction, whether it stopped or not. -/
def stateAfter {α : Type} (m : M α) (s : Sys) : Sys :=
  match m.run s with
  | .ok _ s' => s'
  | .error _ s' => s'

/-- R326 for a string instruction that fails after `irqAt` of its safe points, or before the first when it has fewer: the
state at that point, and the destination of the units that would follow; SCN has none (DESIGN CHOICE, log 16). -/
def strCut (k irqAt : Nat) (dst : Bool) (body : Option Nat → M Unit) : MicroEnd := fun s =>
  let s1 := match (body (some irqAt)).run s with
    | .error .irq s' => s'
    | _ => s
  let g3 (s : Sys) : Nat := ((s.ctx k).rdG 3).toNat
  (s1, if dst then [(g3 s1, (g3 (stateAfter (body none) s1) + w36 - g3 s1) % w36)] else [])

/-- The frame of a string instruction. -/
def strInstr (a : Issue) (i : Instr) (len : Nat) (dst : Bool) (checks : M Unit) (start : M (List Syl × List (Nat × Octet)))
    (op : List Syl → StrOp) (s : State) : Out :=
  onSys (insn a i len true (some (strCut a.core a.irqAt dst (strBody { a with irqAt := 0 } checks start op)))
    (seq (strBody a checks start op none))) s

/-! ## Units of the moves, TRS and SCN -/

/-- Reads one syllable. -/
def rdSyl (k va : Nat) : M Syl := do
  let l ← readSpan k va 1
  pure (l.headD 0)

/-- Writes one whole syllable, or its octet. -/
def wrSyl (k va : Nat) (v : Syl) : M Unit := do
  let p ← spanXl k 3 va 1
  p.write k [v]
def wrOct (k va : Nat) (l : List Octet) : M Span := do
  let p ← spanXl k 3 va l.length
  p.writeOctets k l
  pure p

/-- Steps of R227: phase 0 head, 1 body, 2 tail; a size of 0 is the prime step (DEDUCED, log 35). -/
def movePlan (l : Loop) (rem : Nat) : Nat × Nat :=
  let gap := l.g3 - l.g2
  let cap (n : Nat) : Nat := if gap != 0 && gap < 32 then min n gap else n
  if l.phase = 0 && l.g3 % 32 != 0 then (cap (min rem (min 8 (32 - l.g3 % 32))), 0)
  else if l.phase = 0 && 32 ≤ rem && l.g2 % 32 != l.g3 % 32 then (0, 1)
  else if l.phase ≤ 1 && 32 ≤ rem then (cap 32, 1)
  else (cap (min 8 rem), 2)

/-- Steps of R228 (DEDUCED, log 35). -/
def fixedPlan (n : Nat) (l : Loop) (rem : Nat) : Nat × Nat := (min n rem, l.phase)
/-- DEDUCED, log 35. -/
def trsPlan (l : Loop) (rem : Nat) : Nat × Nat :=
  let gap := l.g3 - l.g2
  (min rem (if gap != 0 && gap < 8 then gap else 8), l.phase)

/-- The unit of MVS: the source is read before the destination is checked (DESIGN CHOICE, log 84). -/
def mvsOp (k : Nat) : StrOp :=
  { drv := 2, plan := movePlan, move := true, unit := fun l => do
      let y ← rdSyl k l.g2
      wrSyl k l.g3 y
      pure (some (1, { l with g2 := l.g2 + 1, g3 := l.g3 + 1 })) }

def mvfOp (k : Nat) : StrOp :=
  { drv := 3, plan := movePlan, move := true, unit := fun l => do
      let y ← rdSyl k l.g2
      let _ ← wrOct k l.g3 [octet y]
      pure (some (1, { l with g2 := l.g2 + 1, g3 := l.g3 + 1 })) }

def trsOp (k : Nat) (tbl : List Syl) : StrOp :=
  { drv := 2, plan := trsPlan, unit := fun l => do
      let y ← rdSyl k l.g2
      let _ ← wrOct k l.g3 [octet ((tbl[(octet y).toNat]?).getD 0)]
      pure (some (1, { l with g2 := l.g2 + 1, g3 := l.g3 + 1 })) }

def scnOp (k : Nat) (tbl : List Syl) : StrOp :=
  { drv := 2, plan := fixedPlan 16, scan := true, unit := fun l => do
      let y ← rdSyl k l.g2
      let c := octet ((tbl[(octet y).toNat]?).getD 0)
      if c.toNat &&& (l.g3 % 256) != 0 then pure none
      else pure (some (1, { l with g2 := l.g2 + 1 })) }

/-- Length of a form that exists short and long. -/
def strLen (lf : Bool) : Nat := if lf then 4 else 2

/-- A start that reads nothing. -/
def startPlain (k n : Nat) : M (List Syl × List (Nat × Octet)) := do
  tick k n
  pure ([], [])

def execMvs (a : Issue) (lf : Bool) (s : State) : Out :=
  strInstr a (.mvs a lf) (strLen lf) true (g1Check a.core) (startPlain a.core 4) (fun _ => mvsOp a.core) s

def execMvf (a : Issue) (lf : Bool) (s : State) : Out :=
  strInstr a (.mvf a lf) (strLen lf) true (g1Check a.core) (startPlain a.core 4) (fun _ => mvfOp a.core) s

/-- The table of TRS and SCN, read whole at the start (R226, R232). -/
def tableM (k : Nat) : M (List Syl × List (Nat × Octet)) := do
  let g ← rG k 4
  tick k 20
  let t ← readSpan k g.toNat 256
  pure (t, [])

def execTrs (a : Issue) (lf : Bool) (s : State) : Out :=
  strInstr a (.trs a lf) (strLen lf) true (g1Check a.core) (tableM a.core) (trsOp a.core) s

def execScn (a : Issue) (lf : Bool) (s : State) : Out :=
  strInstr a (.scn a lf) (strLen lf) false (do
    g1Check a.core
    let g ← rG a.core 3
    if fld g 0 27 != 0 then stringSpec) (tableM a.core) (scnOp a.core) s

/-! ## Code pages (R233-R239) -/

/-- The header of a present page; page 0 is built in. -/
def Sys.pageHdr (s : Sys) (p : Nat) : Option Word :=
  if p = 0 then some (mkw 36 [(0, 1), (1, 1), (9, 0x1A)]) else (tfind s.tabs.pages p).map (fun c => c.hdr)

/-- The scalar value of an octet. -/
def Sys.pageTo (s : Sys) (p o : Nat) : Option Nat :=
  if p = 0 then some o
  else match tfind s.tabs.pages p with
    | none => none
    | some c => match c.ents[o]? with
      | some e => if kbit e 0 then some (fld e 2 17) else none
      | none => none

/-- The lowest octet of a scalar value (R234). -/
def Sys.pageFrom (s : Sys) (p cp : Nat) : Option Nat := firstBelow 256 (fun o => s.pageTo p o = some cp)

/-- R235. -/
def Sys.pageOk (s : Sys) (x : Ctx) (p : Nat) : Bool :=
  (s.pageHdr p).isSome && (x.custody || p = 0 || (!x.noPart && kbit ((s.part x.part).word 3) p))

def utf8 (cp : Nat) : List Octet :=
  let o (n : Nat) : Octet := BitVec.ofNat 8 n
  if cp < 0x80 then [o cp]
  else if cp < 0x800 then [o (0xC0 + cp / 64), o (0x80 + cp % 64)]
  else [o (0xE0 + cp / 4096), o (0x80 + cp / 64 % 64), o (0x80 + cp % 64)]

/-- Octets of the sequence that a lead octet begins; 0 for one that begins none. -/
def utf8Len (b : Nat) : Nat :=
  if b < 0x80 then 1 else if b < 0xC2 then 0 else if b < 0xE0 then 2 else if b < 0xF0 then 3 else if b < 0xF5 then 4 else 0

/-- The octet may follow a lead octet (i = 1), or stand later in a sequence. -/
def utf8Next (lead i b : Nat) : Bool :=
  let lo := if i = 1 && lead = 0xE0 then 0xA0 else if i = 1 && lead = 0xF0 then 0x90 else 0x80
  let hi := if i = 1 && lead = 0xED then 0x9F else if i = 1 && lead = 0xF4 then 0x8F else 0xBF
  lo ≤ b && b ≤ hi

/-- The rest of a sequence: its scalar value, or none for an incomplete tail. -/
def utf8Rest (k g2 lead avail : Nat) : Nat → Nat → Nat → M (Option Nat)
  | 0, _, cp => pure (some cp)
  | n + 1, i, cp => do
    if avail ≤ i then pure none
    else
      let y ← rdSyl k (g2 + i)
      let b := (octet y).toNat
      if !utf8Next lead i b then stringData g2
      utf8Rest k g2 lead avail n (i + 1) (cp * 64 + b % 64)

/-- The next character of CNV: its output and the source syllables it takes, or none for an incomplete tail. -/
def cnvChar (k p : Nat) (d : Bool) (g2 avail : Nat) : M (Option (List Octet × Nat)) := do
  let y ← rdSyl k g2
  let s ← get
  let hdr : Word := (s.pageHdr p).getD 0
  let b := (octet y).toNat
  if !d then
    match s.pageTo p b with
    | some cp => pure (some (utf8 cp, 1))
    | none => if kbit hdr 1 then pure (some (utf8 0xFFFD, 1)) else stringData g2
  else
    let n := utf8Len b
    if n = 0 then stringData g2
    let r ← utf8Rest k g2 b avail (n - 1) 1 (if n = 1 then b else b % 2 ^ (7 - n))
    match r with
    | none => pure none
    | some cp =>
      match (if cp < 0x10000 then s.pageFrom p cp else none) with
      | some o => pure (some ([BitVec.ofNat 8 o], n))
      | none => if kbit hdr 1 then pure (some ([BitVec.ofNat 8 (fld hdr 2 9)], n)) else stringData g2

/-- The destination syllables of a unit lie at or after the first that overlaps `n` unread source syllables at `g2` (R225). -/
def indAt (l : Loop) (va cnt g2 n : Nat) : Bool := !l.ind.isEmpty || (va < g2 + n && g2 < va + cnt)

/-- R225: from the first destination syllable that overlaps an unread source syllable on, the destination's addresses. -/
def indOf (l : Loop) (p : Span) (va cnt g2 n : Nat) : List Nat :=
  if indAt l va cnt g2 n then
    let w := p.pieces.flatMap (fun q => (List.range q.2.1).map (fun i => q.1 + i))
    l.ind ++ (if l.ind.isEmpty then w.drop (g2 - va) else w) else []

def cnvOp (k p : Nat) (d : Bool) : StrOp :=
  { drv := 0, plan := fixedPlan 4, unit := fun l => do
      let g1 ← rG k 1
      let g4 ← rG k 4
      let avail := g1Rem g1
      match ← cnvChar k p d l.g2 avail with
      | none => pure none
      | some (out, n) =>
        if fld g4 1 35 < out.length then pure none
        else
          let sp ← wrOct k l.g3 out
          wG k 4 (g4 - BitVec.ofNat 36 out.length)
          pure (some (n, { l with g2 := l.g2 + n, g3 := l.g3 + out.length,
                                  ind := indOf l sp l.g3 out.length (l.g2 + n) (avail - n) })) }

def execCnv (a : Issue) (p : BitVec 4) (d : Bool) (s : State) : Out :=
  strInstr a (.cnv a p d) 4 true (do
    if 8 ≤ p.toNat then illegal
    let s ← get
    if !s.pageOk (s.ctx a.core) p.toNat then tableUnavailable
    let g ← rG a.core 1
    let g4 ← rG a.core 4
    if g1MM g || kbit g4 0 then stringSpec) (startPlain a.core 4) (fun _ => cnvOp a.core p.toNat d) s

/-! ## EDIT (R240-R246) -/

/-- The pattern table that EDIT may use. -/
def Sys.patOk (s : Sys) (x : Ctx) (p : Nat) : Bool :=
  (tfind s.tabs.patterns p).isSome && (x.custody || (!x.noPart && kbit ((s.part x.part).word 3) (8 + p)))

def e4ST (g : Word) : Nat := fld g 1 2
def e4DLEFT (g : Word) : Nat := fld g 6 11
def e4FILL (g : Word) : Nat := fld g 12 19

/-- The entry for a pattern octet; none where R242 stands in. -/
def patEntry (t : PatTable) (o : Nat) : Option DWord := t.ents.find? (fun e => kbit e 0 && fld e 1 8 = o)

/-- The actions of an entry in a state: OUTZ, OUTNZ, NEXTZ, NEXTNZ; R242 without an entry. -/
def patActs (e : Option DWord) (st : Nat) : Nat × Nat × Nat × Nat :=
  match e with
  | some e => let b := 36 + 10 * st
    (fld e b (b + 2), fld e (b + 3) (b + 5), fld e (b + 6) (b + 7), fld e (b + 8) (b + 9))
  | none => if st = 0 then (0, 0, 0, 0) else (2, 2, st, st)

/-- The octet of an output code (R241); none for UNCH. -/
def patOut (t : PatTable) (out o alt d fill : Nat) (dig neg : Bool) : Option Nat :=
  match out with
  | 0 => some fill
  | 1 => some (if dig then fld t.hdr 1 8 + d else o)
  | 2 => some o
  | 3 => some alt
  | 4 => some (if neg then o else fill)
  | 5 => some (if neg then o else alt)
  | _ => none

/-- The octet of the source syllable at `a`, which one execution reads at most once (R221). -/
def editSrc (k : Nat) (l : Loop) (a : Nat) : M (Octet × Loop) :=
  match l.src.find? (fun x => x.1 = a) with
  | some x => pure (x.2, l)
  | none => do
    let z ← rdSyl k a
    pure (octet z, { l with src := [(a, octet z)] })

def editUnit (k : Nat) (t : PatTable) : StrUnit := fun l => do
  let g4 ← rG k 4
  let st := e4ST g4
  let y ← rdSyl k l.g3
  let o := (octet y).toNat
  let e := patEntry t o
  let flag (i : Nat) : Bool := e.any (fun e => kbit e i)
  let dig := flag 9
  let lo := kbit g4 5
  if dig && e4DLEFT g4 = 0 then stringSpec
  let (d, l) ← if dig then do
      let (z, l) ← editSrc k l l.g2
      let d := if lo then loNib z else hiNib z
      if 9 < d then raise 7 1 0 (l.g2 % w36)
      pure (d, l)
    else pure (0, l)
  let ac := patActs e st
  let nz := dig && d != 0
  let out := if nz then ac.2.1 else ac.1
  let nxt := if nz then ac.2.2.2 else ac.2.2.1
  let dleft := if dig then e4DLEFT g4 - 1 else e4DLEFT g4
  let g2 := if dig && lo then l.g2 + 1 else l.g2
  let lo' := if dig then !lo else lo
  let fill := if flag 10 then o else e4FILL g4
  let nz' := if flag 11 then false else kbit g4 4 || nz
  let alt := match e with
    | some e => fld e 12 19
    | none => 0
  let sg := g2 + lo'.toNat
  let sn := if lo' then dleft / 2 else (dleft + 1) / 2
  let ind ← match patOut t out o alt d fill dig (kbit g4 3) with
    | none =>
      if indAt l l.g3 1 sg sn then do
        let p ← spanXl k 2 l.g3 1
        pure (indOf l p l.g3 1 sg sn)
      else pure l.ind
    | some v => do
      let p ← wrOct k l.g3 [BitVec.ofNat 8 v]
      pure (indOf l p l.g3 1 sg sn)
  wG k 4 (setFld (setFld (setBit (setBit (setFld g4 1 2 nxt) 4 nz') 5 lo') 6 11 dleft) 12 19 fill)
  pure (some (1, { l with g2 := g2, g3 := l.g3 + 1, ind := ind }))

/-- R244: the conditions on G4 at a start and at a resume. -/
def editCheck (g4 : Word) : Bool :=
  if kbit g4 0 then e4ST g4 != 3 else setFld g4 6 11 0 = 0 && e4DLEFT g4 % 2 = 1

/-- Step 6: a start reads and checks the source and sets G4. The octets that it read serve the units, since R221 has a source
syllable read at most once (DESIGN CHOICE, log 35). -/
def editStart (k : Nat) (t : PatTable) : M (List Syl × List (Nat × Octet)) := do
  let g4 ← rG k 4
  tick k 6
  if kbit g4 0 then pure ([], [])
  else
    let n := (e4DLEFT g4 + 1) / 2
    let g2 ← rG k 2
    let l ← readSpan k g2.toNat n
    let os := l.map octet
    match packedBad os 0 with
    | some i => raise 7 1 0 ((g2.toNat + i) % w36)
    | none =>
      tick k ((n + 7) / 8)
      wG k 4 (mkw 36 [(0, 1), (3, (decide (packedVal os < 0)).toNat), (11, e4DLEFT g4), (19, fld t.hdr 9 16)])
      pure ([], (List.range n).map (fun i => (g2.toNat + i, (os[i]?).getD 0)))

def Sys.pattern (s : Sys) (p : Nat) : PatTable := tget { hdr := 0, ents := [] } s.tabs.patterns p

def execEdit (a : Issue) (p : BitVec 4) (s : State) : Out :=
  let t := s.sys.pattern p.toNat
  strInstr a (.edit a p) 4 true (do
    let s ← get
    if !s.patOk (s.ctx a.core) p.toNat then tableUnavailable
    g1Check a.core
    let g4 ← rG a.core 4
    if !editCheck g4 then stringSpec) (editStart a.core t)
    (fun _ => { drv := 3, plan := fixedPlan 2, unit := editUnit a.core t }) s

/-! ## CP2 (R239) -/

def cpPage (k : Nat) (rb : Reg) : M Nat := do
  let p ← rG k rb
  if 7 < p.toNat then stringSpec
  tick k 4
  pure p.toNat

def unmapped : Word := 0o777777777777

def execCpq (a : Issue) (rd rb : Reg) (s : State) : Out :=
  instr a (.cpq a rd rb) 4 (seq (do
    let p ← cpPage a.core rb
    let s ← get
    wG a.core rd (match s.pageHdr p with
      | some h => setBit h 10 (s.pageOk (s.ctx a.core) p)
      | none => 0))) s

def execCptou (a : Issue) (rd ra rb : Reg) (s : State) : Out :=
  instr a (.cptou a rd ra rb) 4 (seq (do
    let p ← cpPage a.core rb
    let s ← get
    if !s.pageOk (s.ctx a.core) p then tableUnavailable
    let o ← rG a.core ra
    wG a.core rd (match s.pageTo p (o.toNat % 256) with
      | some cp => BitVec.ofNat 36 cp
      | none => unmapped))) s

def execCpfromu (a : Issue) (rd ra rb : Reg) (s : State) : Out :=
  instr a (.cpfromu a rd ra rb) 4 (seq (do
    let p ← cpPage a.core rb
    let s ← get
    if !s.pageOk (s.ctx a.core) p then tableUnavailable
    let cp ← rG a.core ra
    wG a.core rd (match s.pageFrom p cp.toNat with
      | some o => BitVec.ofNat 36 o
      | none => unmapped))) s

end Sys2Proof.Machine
end

