-- ==== Sys2Proof/Machine/Dispatch.lean ====
section
/-! DEFINITION. Dispatch: one arm per command, each a direct call of its meaning. -/

namespace Sys2Proof.Machine

def exec (i : Instr) (s : State) : Host.Outcome State Fault Refusal :=
  match i with
  -- Integer moves and arithmetic (04 R119-R120, 05 R154-R156)
  | .mov a rd rs => Sys2Proof.Machine.execMov a rd rs s
  | .add a f => Sys2Proof.Machine.execAdd a f s
  | .sub a f => Sys2Proof.Machine.execSub a f s
  | .and a f => Sys2Proof.Machine.execAnd a f s
  | .or a f => Sys2Proof.Machine.execOr a f s
  | .xor a f => Sys2Proof.Machine.execXor a f s
  | .andn a dbl rd ra rb => Sys2Proof.Machine.execAndn a dbl rd ra rb s
  | .shl a f => Sys2Proof.Machine.execShl a f s
  | .shr a f => Sys2Proof.Machine.execShr a f s
  | .sar a f => Sys2Proof.Machine.execSar a f s
  | .rol a dbl rd ra rb => Sys2Proof.Machine.execRol a dbl rd ra rb s
  | .shli a dbl rd ra n => Sys2Proof.Machine.execShli a dbl rd ra n s
  | .shri a dbl rd ra n => Sys2Proof.Machine.execShri a dbl rd ra n s
  | .sari a dbl rd ra n => Sys2Proof.Machine.execSari a dbl rd ra n s
  | .neg a rd rs => Sys2Proof.Machine.execNeg a rd rs s
  | .not a rd rs => Sys2Proof.Machine.execNot a rd rs s
  | .clrmk a rd rs => Sys2Proof.Machine.execClrmk a rd rs s
  | .slt a f => Sys2Proof.Machine.execSlt a f s
  | .sltu a f => Sys2Proof.Machine.execSltu a f s
  | .addv a dbl rd ra rb => Sys2Proof.Machine.execAddv a dbl rd ra rb s
  | .subv a dbl rd ra rb => Sys2Proof.Machine.execSubv a dbl rd ra rb s
  | .negv a dbl rd ra => Sys2Proof.Machine.execNegv a dbl rd ra s
  | .min a dbl rd ra rb => Sys2Proof.Machine.execMin a dbl rd ra rb s
  | .max a dbl rd ra rb => Sys2Proof.Machine.execMax a dbl rd ra rb s
  | .minu a dbl rd ra rb => Sys2Proof.Machine.execMinu a dbl rd ra rb s
  | .maxu a dbl rd ra rb => Sys2Proof.Machine.execMaxu a dbl rd ra rb s
  | .clz a rd ra => Sys2Proof.Machine.execClz a rd ra s
  | .movd a rd rs => Sys2Proof.Machine.execMovd a rd rs s
  | .daddr a rd rs => Sys2Proof.Machine.execDaddr a rd rs s
  | .dsubr a rd rs => Sys2Proof.Machine.execDsubr a rd rs s
  | .addis a rd imm => Sys2Proof.Machine.execAddis a rd imm s
  | .lis a rd imm => Sys2Proof.Machine.execLis a rd imm s
  | .addi a rd ra imm => Sys2Proof.Machine.execAddi a rd ra imm s
  | .andi a rd ra imm => Sys2Proof.Machine.execAndi a rd ra imm s
  | .ori a rd ra imm => Sys2Proof.Machine.execOri a rd ra imm s
  | .xori a rd ra imm => Sys2Proof.Machine.execXori a rd ra imm s
  | .lih a rd imm => Sys2Proof.Machine.execLih a rd imm s
  | .slti a rd ra imm => Sys2Proof.Machine.execSlti a rd ra imm s
  | .sltiu a rd ra imm => Sys2Proof.Machine.execSltiu a rd ra imm s
  -- Loads and stores (04 R119, R128, R132)
  | .lws a rd rb disp => Sys2Proof.Machine.execLws a rd rb disp s
  | .sws a rd rb disp => Sys2Proof.Machine.execSws a rd rb disp s
  | .lh a rd rb disp => Sys2Proof.Machine.execLh a rd rb disp s
  | .lw a rd rb disp => Sys2Proof.Machine.execLw a rd rb disp s
  | .ldw a rd rb disp => Sys2Proof.Machine.execLdw a rd rb disp s
  | .lsy a rd rb disp => Sys2Proof.Machine.execLsy a rd rb disp s
  | .loc a rd rb disp => Sys2Proof.Machine.execLoc a rd rb disp s
  | .lwn a rd rb disp => Sys2Proof.Machine.execLwn a rd rb disp s
  | .sh a rd rb disp => Sys2Proof.Machine.execSh a rd rb disp s
  | .sw a rd rb disp => Sys2Proof.Machine.execSw a rd rb disp s
  | .sdw a rd rb disp => Sys2Proof.Machine.execSdw a rd rb disp s
  | .ssy a rd rb disp => Sys2Proof.Machine.execSsy a rd rb disp s
  -- Control flow (04 R119, R133-R146)
  | .beqz a ra off => Sys2Proof.Machine.execBeqz a ra off s
  | .bnez a ra off => Sys2Proof.Machine.execBnez a ra off s
  | .bltz a ra off => Sys2Proof.Machine.execBltz a ra off s
  | .bgez a ra off => Sys2Proof.Machine.execBgez a ra off s
  | .brs a off => Sys2Proof.Machine.execBrs a off s
  | .beq a ra rb off => Sys2Proof.Machine.execBeq a ra rb off s
  | .bne a ra rb off => Sys2Proof.Machine.execBne a ra rb off s
  | .blt a ra rb off => Sys2Proof.Machine.execBlt a ra rb off s
  | .bge a ra rb off => Sys2Proof.Machine.execBge a ra rb off s
  | .bltu a ra rb off => Sys2Proof.Machine.execBltu a ra rb off s
  | .bgeu a ra rb off => Sys2Proof.Machine.execBgeu a ra rb off s
  | .beqi a ra imm off => Sys2Proof.Machine.execBeqi a ra imm off s
  | .bnei a ra imm off => Sys2Proof.Machine.execBnei a ra imm off s
  | .blti a ra imm off => Sys2Proof.Machine.execBlti a ra imm off s
  | .bgei a ra imm off => Sys2Proof.Machine.execBgei a ra imm off s
  | .br a off => Sys2Proof.Machine.execBr a off s
  | .call a off => Sys2Proof.Machine.execCall a off s
  | .jr a ra => Sys2Proof.Machine.execJr a ra s
  | .callr a ra => Sys2Proof.Machine.execCallr a ra s
  | .ret a => Sys2Proof.Machine.execRet a s
  | .loop a c e => Sys2Proof.Machine.execLoop a c e s
  -- Control registers and system (03, 04 R129-R130, 10, 11, 12)
  | .getc a r num => Sys2Proof.Machine.execGetc a r num s
  | .putc a r num => Sys2Proof.Machine.execPutc a r num s
  | .getc2 a r num => Sys2Proof.Machine.execGetc2 a r num s
  | .putc2 a r num => Sys2Proof.Machine.execPutc2 a r num s
  | .svc a imm => Sys2Proof.Machine.execSvc a imm s
  | .xret a => Sys2Proof.Machine.execXret a s
  | .shield a imm => Sys2Proof.Machine.execShield a imm s
  | .rsflush a => Sys2Proof.Machine.execRsflush a s
  | .fence a lf => Sys2Proof.Machine.execFence a lf s
  | .wait a lf => Sys2Proof.Machine.execWait a lf s
  | .iva a ra => Sys2Proof.Machine.execIva a ra s
  | .ivp a ra => Sys2Proof.Machine.execIvp a ra s
  | .ivall a => Sys2Proof.Machine.execIvall a s
  | .ivsync a => Sys2Proof.Machine.execIvsync a s
  | .skset a ra rb => Sys2Proof.Machine.execSkset a ra rb s
  | .skget a ra rb => Sys2Proof.Machine.execSkget a ra rb s
  -- Multiply, divide and MAC2 (05 R157-R165, R176-R179)
  | .mul a rd ra rb => Sys2Proof.Machine.execMul a rd ra rb s
  | .mulh a rd ra rb => Sys2Proof.Machine.execMulh a rd ra rb s
  | .mulhu a rd ra rb => Sys2Proof.Machine.execMulhu a rd ra rb s
  | .mulw a rd ra rb => Sys2Proof.Machine.execMulw a rd ra rb s
  | .mulwu a rd ra rb => Sys2Proof.Machine.execMulwu a rd ra rb s
  | .muld a rd ra rb => Sys2Proof.Machine.execMuld a rd ra rb s
  | .div a rd ra rb => Sys2Proof.Machine.execDiv a rd ra rb s
  | .divu a rd ra rb => Sys2Proof.Machine.execDivu a rd ra rb s
  | .rem a rd ra rb => Sys2Proof.Machine.execRem a rd ra rb s
  | .remu a rd ra rb => Sys2Proof.Machine.execRemu a rd ra rb s
  | .divrem a rd ra rb => Sys2Proof.Machine.execDivrem a rd ra rb s
  | .divremu a rd ra rb => Sys2Proof.Machine.execDivremu a rd ra rb s
  | .divd a rd ra rb => Sys2Proof.Machine.execDivd a rd ra rb s
  | .divdu a rd ra rb => Sys2Proof.Machine.execDivdu a rd ra rb s
  | .remd a rd ra rb => Sys2Proof.Machine.execRemd a rd ra rb s
  | .remdu a rd ra rb => Sys2Proof.Machine.execRemdu a rd ra rb s
  | .dividerReload k pass => Sys2Proof.Machine.execDividerReload k pass s
  | .mac2 a ra rb uns clr inc => Sys2Proof.Machine.execMac2 a ra rb uns clr inc s
  -- Floating point (05 R166-R175, 02 R71-R72)
  | .fld a rd rb disp => Sys2Proof.Machine.execFld a rd rb disp s
  | .fst a rd rb disp => Sys2Proof.Machine.execFst a rd rb disp s
  | .fadd a lg rd ra rb => Sys2Proof.Machine.execFadd a lg rd ra rb s
  | .fsub a lg rd ra rb => Sys2Proof.Machine.execFsub a lg rd ra rb s
  | .fmul a lg rd ra rb => Sys2Proof.Machine.execFmul a lg rd ra rb s
  | .fdiv a lg rd ra rb => Sys2Proof.Machine.execFdiv a lg rd ra rb s
  | .fsqrt a lg rd ra => Sys2Proof.Machine.execFsqrt a lg rd ra s
  | .fmin a lg rd ra rb => Sys2Proof.Machine.execFmin a lg rd ra rb s
  | .fmax a lg rd ra rb => Sys2Proof.Machine.execFmax a lg rd ra rb s
  | .fabs a lg rd ra => Sys2Proof.Machine.execFabs a lg rd ra s
  | .fneg a lg rd ra => Sys2Proof.Machine.execFneg a lg rd ra s
  | .fmov a lg rd ra => Sys2Proof.Machine.execFmov a lg rd ra s
  | .fcmp a lg rd ra rb => Sys2Proof.Machine.execFcmp a lg rd ra rb s
  | .fcmps a lg rd ra rb => Sys2Proof.Machine.execFcmps a lg rd ra rb s
  | .frint a lg rd ra => Sys2Proof.Machine.execFrint a lg rd ra s
  | .fcvtsl a rd ra => Sys2Proof.Machine.execFcvtsl a rd ra s
  | .fcvtls a rd ra => Sys2Proof.Machine.execFcvtls a rd ra s
  | .fcvtws a rd ra => Sys2Proof.Machine.execFcvtws a rd ra s
  | .fcvtwl a rd ra => Sys2Proof.Machine.execFcvtwl a rd ra s
  | .fcvtdl a rd ra => Sys2Proof.Machine.execFcvtdl a rd ra s
  | .fcvtsw a rd ra => Sys2Proof.Machine.execFcvtsw a rd ra s
  | .fcvtswz a rd ra => Sys2Proof.Machine.execFcvtswz a rd ra s
  | .fcvtlw a rd ra => Sys2Proof.Machine.execFcvtlw a rd ra s
  | .fcvtlwz a rd ra => Sys2Proof.Machine.execFcvtlwz a rd ra s
  | .fcvtld a rd ra => Sys2Proof.Machine.execFcvtld a rd ra s
  | .fcvtldz a rd ra => Sys2Proof.Machine.execFcvtldz a rd ra s
  | .f64tol a rd ra => Sys2Proof.Machine.execF64tol a rd ra s
  | .ltof64 a rd ra => Sys2Proof.Machine.execLtof64 a rd ra s
  | .mvgs a rd ra => Sys2Proof.Machine.execMvgs a rd ra s
  | .mvsg a rd ra => Sys2Proof.Machine.execMvsg a rd ra s
  | .mvgl a rd ra => Sys2Proof.Machine.execMvgl a rd ra s
  | .mvlg a rd ra => Sys2Proof.Machine.execMvlg a rd ra s
  -- Packed decimal (06 R184-R209)
  | .dadd a ra rb la lb => Sys2Proof.Machine.execDadd a ra rb la lb s
  | .dsub a ra rb la lb => Sys2Proof.Machine.execDsub a ra rb la lb s
  | .dzap a ra rb la lb => Sys2Proof.Machine.execDzap a ra rb la lb s
  | .dcmp a ra rb la lb => Sys2Proof.Machine.execDcmp a ra rb la lb s
  | .dmul a ra rb la lb => Sys2Proof.Machine.execDmul a ra rb la lb s
  | .dmulr a ra rb la lb => Sys2Proof.Machine.execDmulr a ra rb la lb s
  | .ddiv a ra rb la lb => Sys2Proof.Machine.execDdiv a ra rb la lb s
  | .ddivr a ra rb la lb => Sys2Proof.Machine.execDdivr a ra rb la lb s
  | .drem a ra rb la lb => Sys2Proof.Machine.execDrem a ra rb la lb s
  | .dtst a ra la => Sys2Proof.Machine.execDtst a ra la s
  | .pack a ra rb la lb => Sys2Proof.Machine.execPack a ra rb la lb s
  | .unpk a ra rb la lb => Sys2Proof.Machine.execUnpk a ra rb la lb s
  | .unpku a ra rb la lb => Sys2Proof.Machine.execUnpku a ra rb la lb s
  | .dsr a ra rb la => Sys2Proof.Machine.execDsr a ra rb la s
  | .cvpb a ra rb la => Sys2Proof.Machine.execCvpb a ra rb la s
  | .cvbp a ra rb la => Sys2Proof.Machine.execCvbp a ra rb la s
  | .dlda a ra la => Sys2Proof.Machine.execDlda a ra la s
  | .dsta a ra la => Sys2Proof.Machine.execDsta a ra la s
  | .dclra a => Sys2Proof.Machine.execDclra a s
  | .dmac a ra rb la lb neg inc => Sys2Proof.Machine.execDmac a ra rb la lb neg inc s
  -- String instructions (07 R211-R247)
  | .mvs a lf => Sys2Proof.Machine.execMvs a lf s
  | .mvf a lf => Sys2Proof.Machine.execMvf a lf s
  | .trs a lf => Sys2Proof.Machine.execTrs a lf s
  | .scn a lf => Sys2Proof.Machine.execScn a lf s
  | .cnv a p d => Sys2Proof.Machine.execCnv a p d s
  | .edit a p => Sys2Proof.Machine.execEdit a p s
  -- Coprocessor slots, save areas (07 R239, 10 R354, 04 R149, 11 R384)
  | .cpq a rd rb => Sys2Proof.Machine.execCpq a rd rb s
  | .cptou a rd ra rb => Sys2Proof.Machine.execCptou a rd ra rb s
  | .cpfromu a rd ra rb => Sys2Proof.Machine.execCpfromu a rd ra rb s
  | .shinit a rd ra rb => Sys2Proof.Machine.execShinit a rd ra rb s
  | .shstep a rd ra rb => Sys2Proof.Machine.execShstep a rd ra rb s
  | .shfin a rd ra rb => Sys2Proof.Machine.execShfin a rd ra rb s
  | .ginit a rd ra rb => Sys2Proof.Machine.execGinit a rd ra rb s
  | .gaad a rd ra rb => Sys2Proof.Machine.execGaad a rd ra rb s
  | .genc a rd ra rb => Sys2Proof.Machine.execGenc a rd ra rb s
  | .gdec a rd ra rb => Sys2Proof.Machine.execGdec a rd ra rb s
  | .gfin a rd ra rb => Sys2Proof.Machine.execGfin a rd ra rb s
  | .cpRemote a sl rd ra rb cfn => Sys2Proof.Machine.execCpRemote a sl rd ra rb cfn s
  | .cpans h value => Sys2Proof.Machine.execCpans h value s
  | .remoteTimeout k => Sys2Proof.Machine.execRemoteTimeout k s
  | .saveu a => Sys2Proof.Machine.execSaveu a s
  | .savel a => Sys2Proof.Machine.execSavel a s
  -- Postings: instructions (08 R248)
  | .post a ra => Sys2Proof.Machine.execPost a ra s
  | .prep a ra => Sys2Proof.Machine.execPrep a ra s
  | .commit a ra => Sys2Proof.Machine.execCommit a ra s
  | .abort a ra => Sys2Proof.Machine.execAbort a ra s
  | .pstat a rd ra => Sys2Proof.Machine.execPstat a rd ra s
  | .getseq a rd => Sys2Proof.Machine.execGetseq a rd s
  | .getjh a rd => Sys2Proof.Machine.execGetjh a rd s
  | .slacq a rd ra => Sys2Proof.Machine.execSlacq a rd ra s
  | .slrel a rd ra => Sys2Proof.Machine.execSlrel a rd ra s
  -- Postings: events (08 R259-R285)
  | .lockRelease q line => Sys2Proof.Machine.execLockRelease q line s
  | .wound q slot => Sys2Proof.Machine.execWound q slot s
  | .journalSpace q => Sys2Proof.Machine.execJournalSpace q s
  | .commitPoint q slot => Sys2Proof.Machine.execCommitPoint q slot s
  | .journalWrite q => Sys2Proof.Machine.execJournalWrite q s
  | .flushComplete q dev => Sys2Proof.Machine.execFlushComplete q dev s
  | .prepPacket h m => Sys2Proof.Machine.execPrepPacket h m s
  | .pans h pid leg => Sys2Proof.Machine.execPans h pid leg s
  | .commitPacket h pid sq => Sys2Proof.Machine.execCommitPacket h pid sq s
  | .abortPacket h pid => Sys2Proof.Machine.execAbortPacket h pid s
  | .resolve h pid => Sys2Proof.Machine.execResolve h pid s
  | .resolved h pid ok sq => Sys2Proof.Machine.execResolved h pid ok sq s
  | .prepTimeout q slot => Sys2Proof.Machine.execPrepTimeout q slot s
  | .resolveTimer q slot => Sys2Proof.Machine.execResolveTimer q slot s
  -- Store queue, invalidation and coherence (09 R299, 12 R410-R413, 13 R427-R443)
  | .storeCommit k => Sys2Proof.Machine.execStoreCommit k s
  | .lockedLineRetry k => Sys2Proof.Machine.execLockedLineRetry k s
  | .invalidation k => Sys2Proof.Machine.execInvalidation k s
  | .invalidationAck src k => Sys2Proof.Machine.execInvalidationAck src k s
  | .readRequest g line e => Sys2Proof.Machine.execReadRequest g line e s
  | .ownershipRequest g line e => Sys2Proof.Machine.execOwnershipRequest g line e s
  | .forward line inFlight => Sys2Proof.Machine.execForward line inFlight s
  | .writeback g line => Sys2Proof.Machine.execWriteback g line s
  | .uncachedRead g addr len e => Sys2Proof.Machine.execUncachedRead g addr len e s
  | .uncachedWrite g addr data => Sys2Proof.Machine.execUncachedWrite g addr data s
  | .partialWrite g addr data => Sys2Proof.Machine.execPartialWrite g addr data s
  -- Interrupts, shadow, shield, heartbeats (10, 03 R98, 01 R41-R49)
  | .interruptEntry a => Sys2Proof.Machine.execInterruptEntry a s
  | .shadowClose k => Sys2Proof.Machine.execShadowClose k s
  | .shieldEnd k => Sys2Proof.Machine.execShieldEnd k s
  | .heartbeat c sl => Sys2Proof.Machine.execHeartbeat c sl s
  | .heartbeatTick => Sys2Proof.Machine.execHeartbeatTick s
  | .selfTestEnd c sl pass => Sys2Proof.Machine.execSelfTestEnd c sl pass s
  -- Campion (11)
  | .campionEvent c task src => Sys2Proof.Machine.execCampionEvent c task src s
  | .bankSwitch a => Sys2Proof.Machine.execBankSwitch a s
  | .restore c => Sys2Proof.Machine.execRestore c s
  | .timerExpiry c idx => Sys2Proof.Machine.execTimerExpiry c idx s
  | .quantumEnd k => Sys2Proof.Machine.execQuantumEnd k s
  | .create k c w1 => Sys2Proof.Machine.execCreate k c w1 s
  | .ready k c w1 => Sys2Proof.Machine.execReady k c w1 s
  | .cancel k c w1 race => Sys2Proof.Machine.execCancel k c w1 race s
  | .setpri k c w1 arg => Sys2Proof.Machine.execSetpri k c w1 arg s
  | .timer k c w1 => Sys2Proof.Machine.execTimer k c w1 s
  | .evint k c w1 arg => Sys2Proof.Machine.execEvint k c w1 arg s
  | .addarea k c w1 => Sys2Proof.Machine.execAddarea k c w1 s
  | .commandResult a rd rb disp => Sys2Proof.Machine.execCommandResult a rd rb disp s
  -- DMA engines (15)
  | .dmaArm q ch dis => Sys2Proof.Machine.execDmaArm q ch dis s
  | .channelDisable q ch => Sys2Proof.Machine.execChannelDisable q ch s
  | .channelEnable q ch => Sys2Proof.Machine.execChannelEnable q ch s
  | .listEntryRead q ch => Sys2Proof.Machine.execListEntryRead q ch s
  | .dmaTransferStep q ch => Sys2Proof.Machine.execDmaTransferStep q ch s
  | .readBack q ch => Sys2Proof.Machine.execReadBack q ch s
  | .listCompletion q ch => Sys2Proof.Machine.execListCompletion q ch s
  | .busError q kind addr => Sys2Proof.Machine.execBusError q kind addr s
  | .haltClear q => Sys2Proof.Machine.execHaltClear q s
  -- Host port (16)
  | .nop rsv arg => Sys2Proof.Machine.execNop rsv arg s
  | .featCommit rsv arg => Sys2Proof.Machine.execFeatCommit rsv arg s
  | .vfFeatCommit v rsv arg => Sys2Proof.Machine.execVfFeatCommit v rsv arg s
  | .partStart o arg => Sys2Proof.Machine.execPartStart o arg s
  | .partHold o arg => Sys2Proof.Machine.execPartHold o arg s
  | .holdComplete p => Sys2Proof.Machine.execHoldComplete p s
  | .partResume o arg => Sys2Proof.Machine.execPartResume o arg s
  | .partReset o arg => Sys2Proof.Machine.execPartReset o arg s
  | .recoveryOpen rsv arg => Sys2Proof.Machine.execRecoveryOpen rsv arg s
  | .recoveryClose rsv arg => Sys2Proof.Machine.execRecoveryClose rsv arg s
  | .commandComplete fn => Sys2Proof.Machine.execCommandComplete fn s
  | .flashRead i3c len => Sys2Proof.Machine.execFlashRead i3c len s
  | .flashErase i3c => Sys2Proof.Machine.execFlashErase i3c s
  | .flashProgram i3c len fails => Sys2Proof.Machine.execFlashProgram i3c len fails s
  | .flashVerify i3c len => Sys2Proof.Machine.execFlashVerify i3c len s
  | .recoveryOpComplete => Sys2Proof.Machine.execRecoveryOpComplete s
  | .sqDoorbell v qp value => Sys2Proof.Machine.execSqDoorbell v qp value s
  | .cqDoorbell v qp value => Sys2Proof.Machine.execCqDoorbell v qp value s
  | .queueEnable v qp value => Sys2Proof.Machine.execQueueEnable v qp value s
  | .queueDisable v qp value => Sys2Proof.Machine.execQueueDisable v qp value s
  | .submission v qp err => Sys2Proof.Machine.execSubmission v qp err s
  | .responseSend v qp cid data err => Sys2Proof.Machine.execResponseSend v qp cid data err s
  | .coalesceExpiry v qp => Sys2Proof.Machine.execCoalesceExpiry v qp s
  | .hostPortReset why => Sys2Proof.Machine.execHostPortReset why s
  | .vfFlr v => Sys2Proof.Machine.execVfFlr v s
  | .registerWrite fn off width value => Sys2Proof.Machine.execRegisterWrite fn off width value s
  | .lockupEntryClear n => Sys2Proof.Machine.execLockupEntryClear n s
  | .lkstatOvfClear => Sys2Proof.Machine.execLkstatOvfClear s
  -- Reads with an effect (00 R12, 16 R504)
  | .buSeqhRead => Sys2Proof.Machine.execBuSeqhRead s
  | .hiErrcntRead => Sys2Proof.Machine.execHiErrcntRead s
  | .mcCecntRead m => Sys2Proof.Machine.execMcCecntRead m s
  | .mcUecntRead m => Sys2Proof.Machine.execMcUecntRead m s
  | .scErrcntRead => Sys2Proof.Machine.execScErrcntRead s
  | .cqLcntRead l => Sys2Proof.Machine.execCqLcntRead l s
  | .cbDropRead c => Sys2Proof.Machine.execCbDropRead c s
  | .hiQstatRead v qp => Sys2Proof.Machine.execHiQstatRead v qp s
  -- Shelf Coordination Bus (17)
  | .hb src epoch y => Sys2Proof.Machine.execHb src epoch y s
  | .lkacq src lock part y => Sys2Proof.Machine.execLkacq src lock part y s
  | .lkwd src lock part y => Sys2Proof.Machine.execLkwd src lock part y s
  | .lkabn src lock part y => Sys2Proof.Machine.execLkabn src lock part y s
  | .lkrel src lock sq y => Sys2Proof.Machine.execLkrel src lock sq y s
  | .grant dst lock sq y => Sys2Proof.Machine.execGrant dst lock sq y s
  | .grantAb dst lock sq y => Sys2Proof.Machine.execGrantAb dst lock sq y s
  | .lease src code base y => Sys2Proof.Machine.execLease src code base y s
  | .epoch sl live ident ep y => Sys2Proof.Machine.execEpoch sl live ident ep y s
  | .join src ident y => Sys2Proof.Machine.execJoin src ident y s
  | .time count acount y => Sys2Proof.Machine.execTime count acount y s
  | .partitionReset src p y => Sys2Proof.Machine.execPartitionReset src p y s
  | .lockupNotice src ent y => Sys2Proof.Machine.execLockupNotice src ent y s
  | .fenceNotice sl y => Sys2Proof.Machine.execFenceNotice sl y s
  | .moduleDead sl => Sys2Proof.Machine.execModuleDead sl s
  | .takeover => Sys2Proof.Machine.execTakeover s
  -- Caerquesel fabric (18)
  | .frame l f => Sys2Proof.Machine.execFrame l f s
  | .replayRequest l fseq => Sys2Proof.Machine.execReplayRequest l fseq s
  | .linkTraining l ok => Sys2Proof.Machine.execLinkTraining l ok s
  | .trainingRetry l ok => Sys2Proof.Machine.execTrainingRetry l ok s
  | .retrain l ok => Sys2Proof.Machine.execRetrain l ok s
  | .packetForward p => Sys2Proof.Machine.execPacketForward p s
  | .epochPacket h ident live ep => Sys2Proof.Machine.execEpochPacket h ident live ep s
  | .echo h body => Sys2Proof.Machine.execEcho h body s
  | .nak h => Sys2Proof.Machine.execNak h s
  | .pstrm h sseq rec => Sys2Proof.Machine.execPstrm h sseq rec s
  | .prd h sseq => Sys2Proof.Machine.execPrd h sseq s
  | .prdata h sseq rec poison => Sys2Proof.Machine.execPrdata h sseq rec poison s
  | .checkpoint p => Sys2Proof.Machine.execCheckpoint p s
  | .pckd h off data => Sys2Proof.Machine.execPckd h off data s
  | .pseal h s0 len crc buf => Sys2Proof.Machine.execPseal h s0 len crc buf s
  | .failover p => Sys2Proof.Machine.execFailover p s
  -- Start-up and reset (19)
  | .powerOn => Sys2Proof.Machine.execPowerOn s
  | .sfdpDiscovery st => Sys2Proof.Machine.execSfdpDiscovery st s
  | .zeroFill ok ms => Sys2Proof.Machine.execZeroFill ok ms s
  | .hostLinkTraining => Sys2Proof.Machine.execHostLinkTraining s
  | .imageCheck secA secB ms => Sys2Proof.Machine.execImageCheck secA secB ms s
  | .laneCalibration => Sys2Proof.Machine.execLaneCalibration s
  | .tableLoad t dv => Sys2Proof.Machine.execTableLoad t dv s
  | .coreRelease => Sys2Proof.Machine.execCoreRelease s
  | .custodyStart j0 j1 => Sys2Proof.Machine.execCustodyStart j0 j1 s
  | .partitionAutostart => Sys2Proof.Machine.execPartitionAutostart s
  | .readyReport ms => Sys2Proof.Machine.execReadyReport ms s
  | .custodyTimeout => Sys2Proof.Machine.execCustodyTimeout s
  | .moduleReset why => Sys2Proof.Machine.execModuleReset why s
  | .watchdogExpiry => Sys2Proof.Machine.execWatchdogExpiry s
  | .powerDown => Sys2Proof.Machine.execPowerDown s
  -- Background services, power and temperature (20, 21)
  | .yarrowRead m e => Sys2Proof.Machine.execYarrowRead m e s
  | .lapAlarm => Sys2Proof.Machine.execLapAlarm s
  | .channelRetraining m ch ok => Sys2Proof.Machine.execChannelRetraining m ch ok s
  | .forcedRetraining m ch ok => Sys2Proof.Machine.execForcedRetraining m ch ok s
  | .retrainingRetry m ch ok => Sys2Proof.Machine.execRetrainingRetry m ch ok s
  | .ageingMeasurement c slow tjavg lifemo => Sys2Proof.Machine.execAgeingMeasurement c slow tjavg lifemo s
  | .ceilingLowering c => Sys2Proof.Machine.execCeilingLowering c s
  | .powerSample w => Sys2Proof.Machine.execPowerSample w s
  | .clockRaise => Sys2Proof.Machine.execClockRaise s
  | .thermalStep q tj => Sys2Proof.Machine.execThermalStep q tj s
  | .thermalTrip => Sys2Proof.Machine.execThermalTrip s
  | .clockLoss => Sys2Proof.Machine.execClockLoss s
  | .railFault => Sys2Proof.Machine.execRailFault s
  | .telemetrySample => Sys2Proof.Machine.execTelemetrySample s
  -- Management and test ports (21 R638-R639)
  | .i3cRead off => Sys2Proof.Machine.execI3cRead off s
  | .i3cWrite off value => Sys2Proof.Machine.execI3cWrite off value s
  | .bypass => Sys2Proof.Machine.execBypass s
  | .samplePreload => Sys2Proof.Machine.execSamplePreload s
  | .extest => Sys2Proof.Machine.execExtest s
  | .idcode => Sys2Proof.Machine.execIdcode s
  | .lanetest => Sys2Proof.Machine.execLanetest s
  -- Later rows
  | .journalDeviceOffline dev => Sys2Proof.Machine.execJournalDeviceOffline dev s
  | .journalDeviceOnline dev => Sys2Proof.Machine.execJournalDeviceOnline dev s
  | .resetRelease => Sys2Proof.Machine.execResetRelease s
  | .narrowRead fn off width => Sys2Proof.Machine.execNarrowRead fn off width s
  | .partitionSideSetup v qp slotsz task ring log2 => Sys2Proof.Machine.execPartitionSideSetup v qp slotsz task ring log2 s
  | .pcieLinkRecovery port => Sys2Proof.Machine.execPcieLinkRecovery port s
  | .setdasa addr => Sys2Proof.Machine.execSetdasa addr s
  | .entdaa addr => Sys2Proof.Machine.execEntdaa addr s

end Sys2Proof.Machine
end

