-- ==== Sys2Proof/WellFormed.lean ====
section
/-! DEFINITION. Which commands the spec's formats allow: the ranges of operands that the types of the syntax do not bound.
The machine answers every command; an ill-formed one stands for nothing that the hardware can receive. -/

namespace Sys2Proof

/-- Syllables of physical memory (R398). -/
def memLimit : Nat := 0x4000000000

/-- A cache error lies at an address of memory (R398). -/
def Issue.wf (a : Issue) : Bool :=
  match a.hw with
  | .cacheUnc line => line < memLimit
  | .l3Unc line => line < memLimit
  | _ => true

/-- Header fields of R553: a partition of 10 bits and a status of 10 bits. -/
def PktHdr.wf (h : PktHdr) : Bool := h.part < 1024 && h.status < 1024

/-- A leg of R254: its index, currency slot, module, partition and address fit their fields, and its amount has 16
syllables. -/
def Leg.wf (l : Leg) : Bool :=
  l.idx < 16 && l.cix < 4 && l.ident < 2 ^ 18 && l.lpart < 1024 && l.addr < 2 ^ 40 && l.amt.length = 16

def PrepMsg.wf (m : PrepMsg) : Bool :=
  m.cpart < 1024 && m.fmt < 64 && m.curs.length ≤ 4 && m.curs.all (· ≤ 999) && m.legs.all Leg.wf && !m.legs.isEmpty

/-- R553: a virtual channel, a type, a partition, a status, and at most 56 syllables of body. -/
def Packet.wf (p : Packet) : Bool :=
  p.vc < 4 && p.typ < 64 && p.part < 1024 && p.status < 1024 && p.seg < 8 && p.body.length ≤ 56

/-- R547: a frame's packet holds whole syllables of a header, a control double-word and a body; the trailer names a
channel. -/
def Frame.wf (f : Frame) : Bool := f.packet.length ≤ 72 && f.credVc < 4 && f.credit < 2 ^ 16

/-- A lease code, a journal ring size, a clock within CK_CORE's range, and tables whose indices and lengths fit (R22, R233,
R240, R274, R540, R584). -/
def ImageTables.wf (t : ImageTables) : Bool :=
  t.lsize ≤ 10 && t.rsz ≤ 8 && t.parts.all (fun p => p.1 < 1024) && t.formats.all (fun f => f.1 < 64) &&
  t.rules.all (fun r => r.1 < 64) && t.pages.all (fun p => p.1 < 8 && p.2.2.length = 256) &&
  t.patterns.all (fun p => p.1 < 16 && p.2.2.length = 64) && t.ageSteps.length ≤ 7 && 1000 ≤ t.curve && t.curve ≤ 4600

/-- A host access lies in the BAR of a function and has 1 to 64 octets (R503, R504). -/
def accessWf (fn off width : Nat) : Bool :=
  fn ≤ 1024 && off < (if fn = 0 then 0x100000 else 0x10000) && 1 ≤ width && width ≤ 64

def Instr.wf (i : Instr) : Bool :=
  match i with
  | .mov a _ _ => a.wf
  | .add a _ => a.wf
  | .sub a _ => a.wf
  | .and a _ => a.wf
  | .or a _ => a.wf
  | .xor a _ => a.wf
  | .andn a _ _ _ _ => a.wf
  | .shl a _ => a.wf
  | .shr a _ => a.wf
  | .sar a _ => a.wf
  | .rol a _ _ _ _ => a.wf
  | .shli a _ _ _ _ => a.wf
  | .shri a _ _ _ _ => a.wf
  | .sari a _ _ _ _ => a.wf
  | .neg a _ _ => a.wf
  | .not a _ _ => a.wf
  | .clrmk a _ _ => a.wf
  | .slt a _ => a.wf
  | .sltu a _ => a.wf
  | .addv a _ _ _ _ => a.wf
  | .subv a _ _ _ _ => a.wf
  | .negv a _ _ _ => a.wf
  | .min a _ _ _ _ => a.wf
  | .max a _ _ _ _ => a.wf
  | .minu a _ _ _ _ => a.wf
  | .maxu a _ _ _ _ => a.wf
  | .clz a _ _ => a.wf
  | .movd a _ _ => a.wf
  | .daddr a _ _ => a.wf
  | .dsubr a _ _ => a.wf
  | .addis a _ _ => a.wf
  | .lis a _ _ => a.wf
  | .addi a _ _ _ => a.wf
  | .andi a _ _ _ => a.wf
  | .ori a _ _ _ => a.wf
  | .xori a _ _ _ => a.wf
  | .lih a _ _ => a.wf
  | .slti a _ _ _ => a.wf
  | .sltiu a _ _ _ => a.wf
  | .lws a _ _ _ => a.wf
  | .sws a _ _ _ => a.wf
  | .lh a _ _ _ => a.wf
  | .lw a _ _ _ => a.wf
  | .ldw a _ _ _ => a.wf
  | .lsy a _ _ _ => a.wf
  | .loc a _ _ _ => a.wf
  | .lwn a _ _ _ => a.wf
  | .sh a _ _ _ => a.wf
  | .sw a _ _ _ => a.wf
  | .sdw a _ _ _ => a.wf
  | .ssy a _ _ _ => a.wf
  | .beqz a _ _ => a.wf
  | .bnez a _ _ => a.wf
  | .bltz a _ _ => a.wf
  | .bgez a _ _ => a.wf
  | .brs a _ => a.wf
  | .beq a _ _ _ => a.wf
  | .bne a _ _ _ => a.wf
  | .blt a _ _ _ => a.wf
  | .bge a _ _ _ => a.wf
  | .bltu a _ _ _ => a.wf
  | .bgeu a _ _ _ => a.wf
  | .beqi a _ _ _ => a.wf
  | .bnei a _ _ _ => a.wf
  | .blti a _ _ _ => a.wf
  | .bgei a _ _ _ => a.wf
  | .br a _ => a.wf
  | .call a _ => a.wf
  | .jr a _ => a.wf
  | .callr a _ => a.wf
  | .ret a => a.wf
  | .loop a _ _ => a.wf
  | .getc a _ _ => a.wf
  | .putc a _ _ => a.wf
  | .getc2 a _ _ => a.wf
  | .putc2 a _ _ => a.wf
  | .svc a _ => a.wf
  | .xret a => a.wf
  | .shield a _ => a.wf
  | .rsflush a => a.wf
  | .fence a _ => a.wf
  | .wait a _ => a.wf
  | .iva a _ => a.wf
  | .ivp a _ => a.wf
  | .ivall a => a.wf
  | .ivsync a => a.wf
  | .skset a _ _ => a.wf
  | .skget a _ _ => a.wf
  | .mul a _ _ _ => a.wf
  | .mulh a _ _ _ => a.wf
  | .mulhu a _ _ _ => a.wf
  | .mulw a _ _ _ => a.wf
  | .mulwu a _ _ _ => a.wf
  | .muld a _ _ _ => a.wf
  | .div a _ _ _ => a.wf
  | .divu a _ _ _ => a.wf
  | .rem a _ _ _ => a.wf
  | .remu a _ _ _ => a.wf
  | .divrem a _ _ _ => a.wf
  | .divremu a _ _ _ => a.wf
  | .divd a _ _ _ => a.wf
  | .divdu a _ _ _ => a.wf
  | .remd a _ _ _ => a.wf
  | .remdu a _ _ _ => a.wf
  | .dividerReload _ _ => true
  | .mac2 a _ _ _ _ _ => a.wf
  | .fld a _ _ _ => a.wf
  | .fst a _ _ _ => a.wf
  | .fadd a _ _ _ _ => a.wf
  | .fsub a _ _ _ _ => a.wf
  | .fmul a _ _ _ _ => a.wf
  | .fdiv a _ _ _ _ => a.wf
  | .fsqrt a _ _ _ => a.wf
  | .fmin a _ _ _ _ => a.wf
  | .fmax a _ _ _ _ => a.wf
  | .fabs a _ _ _ => a.wf
  | .fneg a _ _ _ => a.wf
  | .fmov a _ _ _ => a.wf
  | .fcmp a _ _ _ _ => a.wf
  | .fcmps a _ _ _ _ => a.wf
  | .frint a _ _ _ => a.wf
  | .fcvtsl a _ _ => a.wf
  | .fcvtls a _ _ => a.wf
  | .fcvtws a _ _ => a.wf
  | .fcvtwl a _ _ => a.wf
  | .fcvtdl a _ _ => a.wf
  | .fcvtsw a _ _ => a.wf
  | .fcvtswz a _ _ => a.wf
  | .fcvtlw a _ _ => a.wf
  | .fcvtlwz a _ _ => a.wf
  | .fcvtld a _ _ => a.wf
  | .fcvtldz a _ _ => a.wf
  | .f64tol a _ _ => a.wf
  | .ltof64 a _ _ => a.wf
  | .mvgs a _ _ => a.wf
  | .mvsg a _ _ => a.wf
  | .mvgl a _ _ => a.wf
  | .mvlg a _ _ => a.wf
  | .dadd a _ _ _ _ => a.wf
  | .dsub a _ _ _ _ => a.wf
  | .dzap a _ _ _ _ => a.wf
  | .dcmp a _ _ _ _ => a.wf
  | .dmul a _ _ _ _ => a.wf
  | .dmulr a _ _ _ _ => a.wf
  | .ddiv a _ _ _ _ => a.wf
  | .ddivr a _ _ _ _ => a.wf
  | .drem a _ _ _ _ => a.wf
  | .dtst a _ _ => a.wf
  | .pack a _ _ _ _ => a.wf
  | .unpk a _ _ _ _ => a.wf
  | .unpku a _ _ _ _ => a.wf
  | .dsr a _ _ _ => a.wf
  | .cvpb a _ _ _ => a.wf
  | .cvbp a _ _ _ => a.wf
  | .dlda a _ _ => a.wf
  | .dsta a _ _ => a.wf
  | .dclra a => a.wf
  | .dmac a _ _ _ _ _ _ => a.wf
  | .mvs a _ => a.wf
  | .mvf a _ => a.wf
  | .trs a _ => a.wf
  | .scn a _ => a.wf
  | .cnv a _ _ => a.wf
  | .edit a _ => a.wf
  | .cpq a _ _ => a.wf
  | .cptou a _ _ _ => a.wf
  | .cpfromu a _ _ _ => a.wf
  | .shinit a _ _ _ => a.wf
  | .shstep a _ _ _ => a.wf
  | .shfin a _ _ _ => a.wf
  | .ginit a _ _ _ => a.wf
  | .gaad a _ _ _ => a.wf
  | .genc a _ _ _ => a.wf
  | .gdec a _ _ _ => a.wf
  | .gfin a _ _ _ => a.wf
  | .cpRemote a _ _ _ _ _ => a.wf
  | .cpans h _ => h.wf
  | .remoteTimeout _ => true
  | .saveu a => a.wf
  | .savel a => a.wf
  | .post a _ => a.wf
  | .prep a _ => a.wf
  | .commit a _ => a.wf
  | .abort a _ => a.wf
  | .pstat a _ _ => a.wf
  | .getseq a _ => a.wf
  | .getjh a _ => a.wf
  | .slacq a _ _ => a.wf
  | .slrel a _ _ => a.wf
  | .lockRelease _ line => line < memLimit / 64
  | .wound _ slot => slot < 576
  | .journalSpace _ => true
  | .commitPoint _ slot => slot < 576
  | .journalWrite _ => true
  | .flushComplete _ _ => true
  | .prepPacket h m => h.wf && m.wf
  | .pans h _ leg => h.wf && leg < 16
  | .commitPacket h _ _ => h.wf
  | .abortPacket h _ => h.wf
  | .resolve h _ => h.wf
  | .resolved h _ _ _ => h.wf
  | .prepTimeout _ slot => slot < 576
  | .resolveTimer _ slot => slot < 576
  | .storeCommit _ => true
  | .lockedLineRetry _ => true
  | .invalidation _ => true
  | .invalidationAck _ _ => true
  | .readRequest _ line _ => line < memLimit / 64
  | .ownershipRequest _ line _ => line < memLimit / 64
  | .forward line _ => line < memLimit / 64
  | .writeback _ line => line < memLimit / 64
  | .uncachedRead _ addr len _ => 0 < len && addr % 64 + len ≤ 64 && addr < 0x4000000000
  | .uncachedWrite _ addr data => 0 < data.length && addr % 64 + data.length ≤ 64 && addr < 0x4000000000
  | .partialWrite _ addr data => 0 < data.length && addr % 64 + data.length ≤ 64 && addr < 0x4000000000
  | .interruptEntry a => a.wf
  | .shadowClose _ => true
  | .shieldEnd _ => true
  | .heartbeat _ _ => true
  | .heartbeatTick => true
  | .selfTestEnd _ _ _ => true
  | .campionEvent _ _ _ => true
  | .bankSwitch a => a.wf
  | .restore _ => true
  | .timerExpiry _ idx => idx < 4096
  | .quantumEnd _ => true
  | .create _ _ _ => true
  | .ready _ _ _ => true
  | .cancel _ _ _ _ => true
  | .setpri _ _ _ _ => true
  | .timer _ _ _ => true
  | .evint _ _ _ _ => true
  | .addarea _ _ _ => true
  | .commandResult a _ _ _ => a.wf
  | .dmaArm _ _ _ => true
  | .channelDisable _ _ => true
  | .channelEnable _ _ => true
  | .listEntryRead _ _ => true
  | .dmaTransferStep _ _ => true
  | .readBack _ _ => true
  | .listCompletion _ _ => true
  | .busError _ _ addr => addr < 0x1000000000000
  | .haltClear _ => true
  | .nop _ arg => arg < 1024
  | .featCommit _ arg => arg < 1024
  | .vfFeatCommit _ _ arg => arg < 1024
  | .partStart _ arg => arg < 1024
  | .partHold _ arg => arg < 1024
  | .holdComplete _ => true
  | .partResume _ arg => arg < 1024
  | .partReset _ arg => arg < 1024
  | .recoveryOpen _ arg => arg < 1024
  | .recoveryClose _ arg => arg < 1024
  | .commandComplete fn => fn ≤ 1024
  | .flashRead _ len => len < 8192
  | .flashErase _ => true
  | .flashProgram _ len _ => len < 8192
  | .flashVerify _ len => len < 8192
  | .recoveryOpComplete => true
  | .sqDoorbell _ _ value => value < 0x1000000000
  | .cqDoorbell _ _ value => value < 0x1000000000
  | .queueEnable _ _ value => value < 0x1000000000
  | .queueDisable _ _ value => value < 0x1000000000
  | .submission _ _ _ => true
  | .responseSend _ _ cid data _ => cid < 65536 && data.length ≤ 65520
  | .coalesceExpiry _ _ => true
  | .hostPortReset _ => true
  | .vfFlr _ => true
  | .registerWrite fn off width value => accessWf fn off width && value < 2 ^ (8 * width)
  | .lockupEntryClear _ => true
  | .lkstatOvfClear => true
  | .buSeqhRead => true
  | .hiErrcntRead => true
  | .mcCecntRead _ => true
  | .mcUecntRead _ => true
  | .scErrcntRead => true
  | .cqLcntRead _ => true
  | .cbDropRead _ => true
  | .hiQstatRead _ _ => true
  | .hb _ _ _ => true
  | .lkacq _ _ _ _ => true
  | .lkwd _ _ _ _ => true
  | .lkabn _ _ _ _ => true
  | .lkrel _ _ _ _ => true
  | .grant _ _ _ _ => true
  | .grantAb _ _ _ _ => true
  | .lease _ code _ _ => code ≤ 10
  | .epoch _ _ _ _ _ => true
  | .join _ _ _ => true
  | .time _ _ _ => true
  | .partitionReset _ _ _ => true
  | .lockupNotice _ _ _ => true
  | .fenceNotice _ _ => true
  | .moduleDead _ => true
  | .takeover => true
  | .frame _ f => f.wf
  | .replayRequest _ _ => true
  | .linkTraining _ _ => true
  | .trainingRetry _ _ => true
  | .retrain _ _ => true
  | .packetForward p => p.wf
  | .epochPacket h _ _ _ => h.wf
  | .echo h body => h.wf && body.length = 8
  | .nak h => h.wf
  | .pstrm h _ rec => h.wf && rec.length = 128
  | .prd h _ => h.wf
  | .prdata h _ rec _ => h.wf && rec.length = 128
  | .checkpoint _ => true
  | .pckd h _ data => h.wf && data.length = 64
  | .pseal h _ _ _ _ => h.wf
  | .failover _ => true
  | .powerOn => true
  | .sfdpDiscovery _ => true
  | .zeroFill _ ms => ms < 0x10000
  | .hostLinkTraining => true
  | .imageCheck _ _ ms => ms < 0x40000
  | .laneCalibration => true
  | .tableLoad t dv => t.wf && dv.all (fun d => d.1 < 108 && d.2 ≤ 3)
  | .coreRelease => true
  | .custodyStart _ _ => true
  | .partitionAutostart => true
  | .readyReport ms => ms < 0x40000
  | .custodyTimeout => true
  | .moduleReset _ => true
  | .watchdogExpiry => true
  | .powerDown => true
  | .yarrowRead _ _ => true
  | .lapAlarm => true
  | .channelRetraining _ _ _ => true
  | .forcedRetraining _ _ _ => true
  | .retrainingRetry _ _ _ => true
  | .ageingMeasurement _ _ _ _ => true
  | .ceilingLowering _ => true
  | .powerSample _ => true
  | .clockRaise => true
  | .thermalStep _ _ => true
  | .thermalTrip => true
  | .clockLoss => true
  | .railFault => true
  | .telemetrySample => true
  | .i3cRead off => off < 0x100000
  | .i3cWrite off value => off < 0x100000 && value < 0x10000000000000000
  | .bypass => true
  | .samplePreload => true
  | .extest => true
  | .idcode => true
  | .lanetest => true
  | .journalDeviceOffline _ => true
  | .journalDeviceOnline _ => true
  | .resetRelease => true
  | .narrowRead fn off width => accessWf fn off width && (width < 4 || off % width != 0)
  | .partitionSideSetup _ _ _ _ _ log2 => 6 ≤ log2 && log2 ≤ 20
  | .pcieLinkRecovery _ => true
  | .setdasa _ => true
  | .entdaa _ => true

end Sys2Proof
end

