-- ==== Sys2Proof/Safety.lean ====
section
/-! DEFINITION. What the claims about single commands speak of: an instruction that issues and is fetched, register
values, and the invariants that every step keeps. -/

namespace Sys2Proof.Machine

/-- Instruction `i`, of `len` syllables, issues in `s`: no hardware failure meets it, its core runs a context and nothing
holds it back, and the fetch, which finds `i` at the PC, and the loop-end check (R117, R145, R151) end well in `s1`.
`known`: the spec gives the instruction a word. -/
def IssuedAs (known : Bool) (a : Issue) (i : Instr) (len : Nat) (s s1 : Sys) : Prop :=
  a.hw = .none ∧ (s.closeShadow a.core).canIssue a.core = true ∧
  (do fetch a i known; loopCheck a.core len : M Unit).run (s.closeShadow a.core) = .ok () s1

/-- The instruction issues; the spec gives it a word. -/
abbrev Issued : Issue → Instr → Nat → Sys → Sys → Prop := IssuedAs true

/-- A part of an instruction, run in `s`, ends well with value `v` in state `s'`. -/
def Ends {α : Type} (m : M α) (s : Sys) (v : α) (s' : Sys) : Prop := m.run s = .ok v s'

/-- A part of an instruction, run in `s`, meets exception `e`; `s'` is the state then. -/
def Meets {α : Type} (m : M α) (s : Sys) (e : Exc) (s' : Sys) : Prop := m.run s = .error (.exc e false) s'

/-- General register `r`, and the pair from `r` on, of the context that runs on core `k`. -/
def Sys.gr (s : Sys) (k : Nat) (r : Reg) : Word := (s.ctx k).rdG r
def Sys.gp (s : Sys) (k : Nat) (r : Reg) : DWord := (s.ctx k).rdP r

/-- A register, or a pair, takes a value. -/
def Sys.putR (k : Nat) (r : Reg) (v : Word) (s : Sys) : Sys := s.modCtx k (fun x => x.wrG r v)
def Sys.putP (k : Nat) (r : Reg) (v : DWord) (s : Sys) : Sys := s.modCtx k (fun x => x.wrP r v)

/-- What an instruction of `len` syllables leaves when it goes on with `n` from `s2`. -/
def doneBy (a : Issue) (len : Nat) (n : Next) (st : State) (s2 : Sys) : Out :=
  .next { st with sys := s2.retire a.core len n }

/-- What an instruction leaves that takes exception `e` in state `s2`: its entry, with every register as at its start
(DEDUCED, log 7). -/
def trapBy (a : Issue) (e : Exc) (st : State) (s2 : Sys) : Out :=
  .next { st with sys := Sys.takeExc a.core e (Sys.undo a.core (st.sys.closeShadow a.core) s2) }

/-- What an instruction leaves that waits, or that has given up its core, in state `s2`. -/
def leftBy (st : State) (s2 : Sys) : Out := .next { st with sys := s2 }

/-- The float unit, or the decimal unit, of core `k` belongs to the task that runs there (R391). -/
def Sys.ownsF (s : Sys) (k : Nat) : Prop := (s.core k).fu.owner = some (s.ctx k).taskid.toNat
def Sys.ownsD (s : Sys) (k : Nat) : Prop := (s.core k).du.owner = some (s.ctx k).taskid.toNat

/-- The operands of a two-operand decimal instruction, A writable too when `w`, translate and are read as `x` and `y`. -/
def Both (k : Nat) (ra rb : Reg) (la lb : BitVec 6) (w : Bool) (s : Sys) (p : Span × Span) (x y : Int) (s' : Sys) : Prop :=
  ∃ s2 s3, Ends (twoSpans k ra rb la lb true w) s p s2 ∧ Ends (packedIn k p.1) s2 x s3 ∧ Ends (packedIn k p.2) s3 y s'

/-- A decimal instruction drops held divide state (R205) and adds `n` cycles. -/
def Sys.decDone (k n : Nat) (s : Sys) : Sys :=
  (s.modCore k (fun c => { c with du := { c.du with held := none } })).modCore k (fun c => { c with cyc := c.cyc + n })

/-- The operands of a seal step of `n` octets at G[ra] (`acc` 3: worked in place) on the state area at G[rb] translate and
are read: the spans, the area's and the data's octets, the working state that stands for the area, and the unit's keys. -/
def SealIn (k : Nat) (ra rb : Reg) (gcm : Bool) (n acc : Nat) (s : Sys) (sp dp : Span) (area data : List Octet)
    (wk : Option SealSt) (keys : Tbl (List Octet)) (s' : Sys) : Prop :=
  ∃ s2 ar s3 s4 dr s5 s6, Ends (spanRw k (s.gr k rb).toNat 128) s sp s2 ∧ Ends (sp.read k) s2 ar s3 ∧ area = ar.map octet ∧
    wk = s3.sealRec ((sp.pieces.head?.map (fun p => p.1)).getD 0) gcm area ∧ keys = s3.tabs.keys ∧
    Ends (if acc = 3 then spanRw k (s.gr k ra).toNat n else spanXl k 2 (s.gr k ra).toNat n) s3 dp s4 ∧
    Ends (dp.read k) s4 dr s5 ∧ data = dr.map octet ∧ Ends (sp.ready k) s5 () s6 ∧
    Ends (if acc = 3 then dp.ready k else pure ()) s6 () s'

/-- The end of a seal step: the area holds `put`, its own octets, and free ones where the unit works; `r` stands for it,
or nothing does after the last step; G[rd] is 0. -/
def SealEnd (k : Nat) (rd : Reg) (gcm : Bool) (sp : Span) (area put : List Octet) (r : Option SealSt) (cyc : Nat)
    (s s' : Sys) : Prop :=
  ∃ w s1 s2, Ends (freshOctets (128 - workFrom gcm)) s w s1 ∧
    Ends (sp.writeOctets k (put ++ (area.take (workFrom gcm)).drop put.length ++ w)) s1 () s2 ∧
    let key := (sp.pieces.head?.map (fun p => p.1)).getD 0
    let t : Sys :=
      { s2 with seals := match r with
          | some r => tset s2.seals key { r with snap := w }
          | none => terase s2.seals key }
    s' = (t.modCore k (fun c => { c with cyc := c.cyc + cyc })).putR k rd 0

/-- The canonical form of the flash: addresses rising, no octet that is erased. -/
def Flash.wf (f : Tbl Octet) : Bool := risingFrom 0 f && f.all (fun x => x.2 != 0xFF)

/-- The memory and the flash are canonical, and no cluster's clock step lies above its fuses or its fuses above 7. -/
def State.Inv (s : State) : Prop :=
  Memory.wf s.sys.mem = true ∧ Flash.wf s.flash = true ∧
  ∀ c, tget 0 s.pwr.applied c ≤ tget 0 s.pwr.steps c ∧ tget 0 s.pwr.steps c ≤ 7

end Sys2Proof.Machine
end

