-- ==== Sys2Proof/Certificates/Slice0/Obligations.lean ====
section
/-! DEFINITION. What the provers are asked to prove of the model. -/

open Sys2Proof Sys2Proof.Machine

/-- The queue is first in, first out.
Where the spec leaves a choice, the clauses follow the model's own (log entry 1). -/
def Obligations.StepRunsFront : Prop :=
  (∀ (c : Instr) (cs : List Instr) (s : State), step { s with pending := c :: cs } = exec c { s with pending := cs }) ∧
  ∀ s : State, s.pending = [] → step s = .next s

/-- Fields of the reset state for which the registers' maps give a value.
Where the spec leaves a choice, the clauses follow the model's own (log entry 2). -/
def Obligations.ResetState : Prop :=
  State.reset.Inv ∧ State.reset.pending = [] ∧ State.reset.sys.mem = [] ∧ State.reset.sys.parts = [] ∧ State.reset.sys.camp = [] ∧
  State.reset.sys.fab.links = [] ∧ State.reset.sys.tabs.loaded = false ∧ State.reset.sys.scStat = 0xC00000000 ∧
  (∀ q : Quad, State.reset.sys.jstat q = 0x800000000) ∧ State.reset.hiStat = 0 ∧
  (∀ c : Cluster, State.reset.pwr.ceiling c = 4600) ∧ State.reset.pwr.powerReg = 0x3B6000 ∧
  ∀ (q : Quad) (c : Chan), (State.reset.sys.chan q c).dis = true

/-- Word results (04 R119, R120; 05 R154, R155). -/
def Obligations.IntegerWordResults : Prop :=
  (∀ (a : Issue) (st : State) (s1 : Sys) (rd ra rb : Reg),
    let A := s1.gr a.core ra
    let B := s1.gr a.core rb
    ∀ p ∈ [(Instr.add a (.iop rd ra rb), A + B), (.sub a (.iop rd ra rb), A - B), (.and a (.iop rd ra rb), A &&& B),
           (.or a (.iop rd ra rb), A ||| B), (.xor a (.iop rd ra rb), A ^^^ B), (.andn a false rd ra rb, A &&& ~~~B),
           (.shl a (.iop rd ra rb), A <<< (B.toNat % 64)), (.shr a (.iop rd ra rb), A >>> (B.toNat % 64)),
           (.sar a (.iop rd ra rb), A.sshiftRight (B.toNat % 64)), (.rol a false rd ra rb, A.rotateLeft (B.toNat % 64 % 36)),
           (.slt a (.iop rd ra rb), if A.toInt < B.toInt then 1 else 0),
           (.sltu a (.iop rd ra rb), if A.toNat < B.toNat then 1 else 0),
           (.min a false rd ra rb, if A.toInt ≤ B.toInt then A else B),
           (.max a false rd ra rb, if B.toInt ≤ A.toInt then A else B),
           (.minu a false rd ra rb, if A.toNat ≤ B.toNat then A else B),
           (.maxu a false rd ra rb, if B.toNat ≤ A.toNat then A else B)],
      Issued a p.1 4 st.sys s1 → exec p.1 st = doneBy a 4 .seq st (s1.putR a.core rd p.2)) ∧
  ∀ (a : Issue) (st : State) (s1 : Sys) (rd rs : Reg),
    let A := s1.gr a.core rd
    let B := s1.gr a.core rs
    ∀ p ∈ [(Instr.add a (.short rd rs), A + B), (.sub a (.short rd rs), A - B), (.and a (.short rd rs), A &&& B),
           (.or a (.short rd rs), A ||| B), (.xor a (.short rd rs), A ^^^ B),
           (.shl a (.short rd rs), A <<< (B.toNat % 64)), (.shr a (.short rd rs), A >>> (B.toNat % 64)),
           (.sar a (.short rd rs), A.sshiftRight (B.toNat % 64)),
           (.slt a (.short rd rs), if A.toInt < B.toInt then 1 else 0),
           (.sltu a (.short rd rs), if A.toNat < B.toNat then 1 else 0)],
      Issued a p.1 2 st.sys s1 → exec p.1 st = doneBy a 2 .seq st (s1.putR a.core rd p.2)

/-- Double-word results (R84, R120, R154, R155). -/
def Obligations.IntegerPairResults : Prop :=
  (∀ (a : Issue) (st : State) (s1 : Sys) (rd ra rb : Reg),
    let A := s1.gp a.core ra
    let B := s1.gp a.core rb
    ∀ p ∈ [(Instr.add a (.iopd rd ra rb), A + B), (.sub a (.iopd rd ra rb), A - B), (.and a (.iopd rd ra rb), A &&& B),
           (.or a (.iopd rd ra rb), A ||| B), (.xor a (.iopd rd ra rb), A ^^^ B), (.andn a true rd ra rb, A &&& ~~~B),
           (.shl a (.iopd rd ra rb), A <<< (B.toNat % 128)), (.shr a (.iopd rd ra rb), A >>> (B.toNat % 128)),
           (.sar a (.iopd rd ra rb), A.sshiftRight (B.toNat % 128)), (.rol a true rd ra rb, A.rotateLeft (B.toNat % 128 % 72)),
           (.slt a (.iopd rd ra rb), if A.toInt < B.toInt then 1 else 0),
           (.sltu a (.iopd rd ra rb), if A.toNat < B.toNat then 1 else 0),
           (.min a true rd ra rb, if A.toInt ≤ B.toInt then A else B),
           (.max a true rd ra rb, if B.toInt ≤ A.toInt then A else B),
           (.minu a true rd ra rb, if A.toNat ≤ B.toNat then A else B),
           (.maxu a true rd ra rb, if B.toNat ≤ A.toNat then A else B)],
      Issued a p.1 4 st.sys s1 → exec p.1 st = if rd.val % 2 = 0 ∧ ra.val % 2 = 0 ∧ rb.val % 2 = 0 then doneBy a 4 .seq st (s1.putP a.core rd p.2)
        else trapBy a { cls := 1, code := 1 } st s1) ∧
  ∀ (a : Issue) (st : State) (s1 : Sys) (rd rs : Reg),
    Issued a (.movd a rd rs) 2 st.sys s1 → exec (.movd a rd rs) st = if rd.val % 2 = 0 ∧ rs.val % 2 = 0 then doneBy a 2 .seq st (s1.putP a.core rd (s1.gp a.core rs))
      else trapBy a { cls := 1, code := 1 } st s1

/-- Moves, immediates and shifts by an immediate (R119-R121, R127, R155). -/
def Obligations.IntegerImmediateResults : Prop :=
  (∀ (a : Issue) (st : State) (s1 : Sys) (rd rs : Reg) (imm : BitVec 9),
    let A := s1.gr a.core rd
    let B := s1.gr a.core rs
    (Issued a (.mov a rd rs) 2 st.sys s1 → exec (.mov a rd rs) st =
      doneBy a 2 .seq st (s1.putR a.core rd B)) ∧
    ∀ p ∈ [(Instr.neg a rd rs, -B), (.not a rd rs, ~~~B), (.clrmk a rd rs, B &&& 0o377377377377),
           (.addis a rd imm, A + imm.signExtend 36), (.lis a rd imm, imm.signExtend 36)],
      Issued a p.1 2 st.sys s1 → exec p.1 st = doneBy a 2 .seq st (s1.putR a.core rd p.2)) ∧
  ∀ (a : Issue) (st : State) (s1 : Sys) (rd ra : Reg) (imm : BitVec 18) (n : BitVec 7),
    let A := s1.gr a.core ra
    let P := s1.gp a.core ra
    (∀ p ∈ [(Instr.clz a rd ra, BitVec.ofNat 36 (clz A)), (.addi a rd ra imm, A + imm.signExtend 36),
            (.andi a rd ra imm, A &&& imm.zeroExtend 36), (.ori a rd ra imm, A ||| imm.zeroExtend 36),
            (.xori a rd ra imm, A ^^^ imm.zeroExtend 36), (.lih a rd imm, BitVec.ofNat 36 (imm.toNat * 2 ^ 18)),
            (.slti a rd ra imm, if A.toInt < imm.toInt then 1 else 0),
            (.sltiu a rd ra imm, if A.toNat < (imm.signExtend 36).toNat then 1 else 0)],
      Issued a p.1 4 st.sys s1 → exec p.1 st = doneBy a 4 .seq st (s1.putR a.core rd p.2)) ∧
    (∀ p ∈ [(Instr.shli a false rd ra n, A <<< n.toNat), (.shri a false rd ra n, A >>> n.toNat),
            (.sari a false rd ra n, A.sshiftRight n.toNat)],
      Issued a p.1 4 st.sys s1 → exec p.1 st = doneBy a 4 .seq st (s1.putR a.core rd p.2)) ∧
    ∀ p ∈ [(Instr.shli a true rd ra n, P <<< n.toNat), (.shri a true rd ra n, P >>> n.toNat),
           (.sari a true rd ra n, P.sshiftRight n.toNat)],
      Issued a p.1 4 st.sys s1 → exec p.1 st = if rd.val % 2 = 0 ∧ ra.val % 2 = 0 then doneBy a 4 .seq st (s1.putP a.core rd p.2)
        else trapBy a { cls := 1, code := 1 } st s1

/-- R156. -/
def Obligations.CheckedIntegerResults : Prop :=
  ∀ (a : Issue) (st : State) (s1 : Sys) (rd ra rb : Reg),
    (let A := (s1.gr a.core ra).toInt
     let B := (s1.gr a.core rb).toInt
     ∀ p ∈ [(Instr.addv a false rd ra rb, A + B), (.subv a false rd ra rb, A - B), (.negv a false rd ra, -A)],
       Issued a p.1 4 st.sys s1 → exec p.1 st = if -(2 ^ 35 : Int) ≤ p.2 ∧ p.2 < (2 ^ 35 : Int)
         then doneBy a 4 .seq st (s1.putR a.core rd (BitVec.ofInt 36 p.2))
         else trapBy a { cls := 6, code := 1 } st s1) ∧
    (let A := (s1.gp a.core ra).toInt
     let B := (s1.gp a.core rb).toInt
     rd.val % 2 = 0 → ra.val % 2 = 0 → rb.val % 2 = 0 →
     ∀ p ∈ [(Instr.addv a true rd ra rb, A + B), (.subv a true rd ra rb, A - B), (.negv a true rd ra, -A)],
       Issued a p.1 4 st.sys s1 → exec p.1 st = if -(2 ^ 71 : Int) ≤ p.2 ∧ p.2 < (2 ^ 71 : Int)
         then doneBy a 4 .seq st (s1.putP a.core rd (BitVec.ofInt 72 p.2))
         else trapBy a { cls := 6, code := 1 } st s1) ∧
    (rd.val % 2 = 1 ∨ ra.val % 2 = 1 →
      ∀ i ∈ [Instr.addv a true rd ra rb, .subv a true rd ra rb, .negv a true rd ra],
        Issued a i 4 st.sys s1 → exec i st = trapBy a { cls := 1, code := 1 } st s1)

/-- Loads (R119, R128, R132).
Where the spec leaves a choice, the clauses follow the model's own (log entry 21). -/
def Obligations.LoadResults : Prop :=
  (∀ (a : Issue) (st : State) (s1 s2 : Sys) (rd rb : Reg) (disp : BitVec 18),
    let at' : Int := (s1.gr a.core rb).toNat + disp.toInt
    (∀ p ∈ [(Instr.lh a rd rb disp, 2, fun (l : List Syl) => wordOf l), (.lw a rd rb disp, 4, fun l => wordOf l),
            (.lsy a rd rb disp, 1, fun l => wordOf l), (.loc a rd rb disp, 1, fun l => wordOf (l.map (fun x => x &&& 0xFF))),
            (.lwn a rd rb disp, 4, fun l => wordOf l &&& 0o377377377377)],
      (∀ l, Ends (loadN a.core p.2.1 at') s1 l s2 → Issued a p.1 4 st.sys s1 → exec p.1 st = doneBy a 4 .seq st (s2.putR a.core rd (p.2.2 l))) ∧
      ∀ e, Meets (loadN a.core p.2.1 at') s1 e s2 → Issued a p.1 4 st.sys s1 → exec p.1 st = trapBy a e st s2) ∧
    ∀ i ∈ [Instr.ldw a rd rb disp, .commandResult a rd rb disp],
      (rd.val % 2 = 0 → ∀ l, Ends (loadAs a.core 8 at' true) s1 l s2 →
        Issued a (.ldw a rd rb disp) 4 st.sys s1 → exec i st = doneBy a 4 .seq st (s2.putP a.core rd (dwordOf l))) ∧
      (rd.val % 2 = 0 → ∀ e, Meets (loadAs a.core 8 at' true) s1 e s2 → Issued a (.ldw a rd rb disp) 4 st.sys s1 → exec i st = trapBy a e st s2) ∧
      (rd.val % 2 = 1 → Issued a (.ldw a rd rb disp) 4 st.sys s1 → exec i st = trapBy a { cls := 1, code := 1 } st s1)) ∧
  ∀ (a : Issue) (st : State) (s1 s2 : Sys) (rd rb : Reg) (disp : BitVec 4),
    let at' : Int := (s1.gr a.core rb).toNat + 4 * disp.toNat
    (∀ l, Ends (loadN a.core 4 at') s1 l s2 → Issued a (.lws a rd rb disp) 2 st.sys s1 → exec (.lws a rd rb disp) st = doneBy a 2 .seq st (s2.putR a.core rd (wordOf l))) ∧
    ∀ e, Meets (loadN a.core 4 at') s1 e s2 → Issued a (.lws a rd rb disp) 2 st.sys s1 → exec (.lws a rd rb disp) st = trapBy a e st s2

/-- Stores (R119, R128, R132, R299).
Where the spec leaves a choice, the clauses follow the model's own (log entry 21). -/
def Obligations.StoreResults : Prop :=
  (∀ (a : Issue) (st : State) (s1 s2 : Sys) (rd rb : Reg) (disp : BitVec 18),
    let at' : Int := (s1.gr a.core rb).toNat + disp.toInt
    let v := (s1.gr a.core rd).toNat
    (∀ p ∈ [(Instr.sh a rd rb disp, sylsOf 2 v), (.sw a rd rb disp, sylsOf 4 v), (.ssy a rd rb disp, sylsOf 1 v)],
      (Ends (storeN a.core at' p.2) s1 () s2 → Issued a p.1 4 st.sys s1 → exec p.1 st = doneBy a 4 .seq st s2) ∧
      ∀ e, Meets (storeN a.core at' p.2) s1 e s2 → Issued a p.1 4 st.sys s1 → exec p.1 st = trapBy a e st s2) ∧
    (rd.val % 2 = 0 → Ends (storeAs a.core at' (sylsD (s1.gp a.core rd)) true) s1 () s2 →
      Issued a (.sdw a rd rb disp) 4 st.sys s1 → exec (.sdw a rd rb disp) st = doneBy a 4 .seq st s2) ∧
    (rd.val % 2 = 0 → ∀ e, Meets (storeAs a.core at' (sylsD (s1.gp a.core rd)) true) s1 e s2 →
      Issued a (.sdw a rd rb disp) 4 st.sys s1 → exec (.sdw a rd rb disp) st = trapBy a e st s2) ∧
    (rd.val % 2 = 1 → Issued a (.sdw a rd rb disp) 4 st.sys s1 → exec (.sdw a rd rb disp) st = trapBy a { cls := 1, code := 1 } st s1)) ∧
  ∀ (a : Issue) (st : State) (s1 s2 : Sys) (rd rb : Reg) (disp : BitVec 4),
    let at' : Int := (s1.gr a.core rb).toNat + 4 * disp.toNat
    (Ends (storeN a.core at' (sylsOf 4 (s1.gr a.core rd).toNat)) s1 () s2 → Issued a (.sws a rd rb disp) 2 st.sys s1 → exec (.sws a rd rb disp) st = doneBy a 2 .seq st s2) ∧
    ∀ e, Meets (storeN a.core at' (sylsOf 4 (s1.gr a.core rd).toNat)) s1 e s2 →
      Issued a (.sws a rd rb disp) 2 st.sys s1 → exec (.sws a rd rb disp) st = trapBy a e st s2

/-- R53, R55, R132, R299.
Where the spec leaves a choice, the clauses follow the model's own (log entries 10, 21 and 77). -/
def Obligations.DataAccesses : Prop :=
  ∀ (k n : Nat) (w : Bool) (at' : Int) (d : List Syl) (s : Sys), 0 < n →
    (at' % (n : Int) ≠ 0 → Meets (loadAs k n at' w) s { cls := 1, code := 4, acc := 2, faddr := (at' % 2 ^ 36).toNat } s) ∧
    (at' % (n : Int) = 0 → (at' < 0 ∨ 2 ^ 36 ≤ at') →
      Meets (loadAs k n at' w) s { cls := 2, code := 1, acc := 2, faddr := (at' % 2 ^ 36).toNat } s) ∧
    (d.length = n → at' % (n : Int) ≠ 0 →
      Meets (storeAs k at' d w) s { cls := 1, code := 4, acc := 3, faddr := (at' % 2 ^ 36).toNat } s) ∧
    (d.length = n → at' % (n : Int) = 0 → (at' < 0 ∨ 2 ^ 36 ≤ at') →
      Meets (storeAs k at' d w) s { cls := 2, code := 1, acc := 3, faddr := (at' % 2 ^ 36).toNat } s) ∧
    (∀ (r : Xl) (s2 : Sys), at' % (n : Int) = 0 → 0 ≤ at' → at' < 2 ^ 36 →
      Ends (xlate k (s.bankOf k) (s.ctx k) (s.ctx k).status 2 at'.toNat false) s r s2 → r.pa < 2 ^ 38 →
      (∀ e ∈ (s2.core k).sq, e.overlaps r.pa n = false) → s2.blockedLine k false r.pa n = none →
      let s3 := s2.useSpan k false r.pa n
      (s3.poisonAt k false r.pa n = none → Ends (loadAs k n at' w) s ((List.range n).map (fun i => mget s3.mem (r.pa + i))) s3) ∧
      (∀ i, s3.poisonAt k false r.pa n = some i →
        Meets (loadAs k n at' w) s { cls := 14, code := 1, acc := 2, faddr := at'.toNat + i, info := 701 } s3) ∧
      (s2.flips = [] → s3.mem = s2.mem)) ∧
    (∀ (r : Xl) (s2 : Sys) (older younger : List StoreEnt) (e : StoreEnt), at' % (n : Int) = 0 → 0 ≤ at' → at' < 2 ^ 36 →
      Ends (xlate k (s.bankOf k) (s.ctx k) (s.ctx k).status 2 at'.toNat false) s r s2 → r.pa < 2 ^ 38 →
      (s2.core k).sq = older ++ e :: younger → (∀ y ∈ younger, y.overlaps r.pa n = false) → e.holds r.pa n = true →
      Ends (loadAs k n at' w) s ((e.data.drop (r.pa - e.pa)).take n) s2) ∧
    ∀ (r : Xl) (s2 : Sys), d.length = n → at' % (n : Int) = 0 → 0 ≤ at' → at' < 2 ^ 36 →
      Ends (xlate k (s.bankOf k) (s.ctx k) (s.ctx k).status 3 at'.toNat false) s r s2 → (s2.core k).sq.length < 48 →
      Ends (storeAs k at' d w) s () (s2.modCore k (fun c => { c with sq := c.sq ++
        [{ pa := r.pa, va := at'.toNat, data := d, bank := s.bankOf k, world := (s.ctx k).custody, sup := (s.ctx k).sup,
           leaf := r.leaf, sdw := if w then some (s.ctx k) else none, part := (s.ctx k).owner }] }))

/-- R119, R133-R136.
Where the spec leaves a choice, the clauses follow the model's own (log entry 78). -/
def Obligations.BranchResults : Prop :=
  let go (a : Issue) (len : Nat) (st : State) (s1 : Sys) (d : Option Bool) (c : Bool) (t : Int) : Out :=
    if !c then doneBy a len .seq st (s1.learn a.core d none)
    else if 0 ≤ t ∧ t < 2 ^ 36 then doneBy a len (.jump t.toNat true) st (s1.learn a.core d (some t.toNat))
    else trapBy a { cls := 2, code := 1, acc := 1, faddr := (t % 2 ^ 36).toNat } st s1
  (∀ (a : Issue) (st : State) (s1 : Sys) (ra : Reg) (off : BitVec 9) (far : BitVec 14),
    let A := s1.gr a.core ra
    let pc : Int := (s1.ctx a.core).pc.toNat
    (∀ p ∈ [(Instr.beqz a ra off, decide (A = 0)), (.bnez a ra off, decide (A ≠ 0)),
            (.bltz a ra off, decide (A.toInt < 0)), (.bgez a ra off, decide (0 ≤ A.toInt))],
      Issued a p.1 2 st.sys s1 → exec p.1 st = go a 2 st s1 (some p.2) p.2 (pc + 2 * off.toInt)) ∧
    Issued a (.brs a far) 2 st.sys s1 → exec (.brs a far) st = go a 2 st s1 none true (pc + 2 * far.toInt)) ∧
  ∀ (a : Issue) (st : State) (s1 : Sys) (ra rb : Reg) (imm : BitVec 5) (off : BitVec 18) (far : BitVec 28),
    let A := s1.gr a.core ra
    let B := s1.gr a.core rb
    let pc : Int := (s1.ctx a.core).pc.toNat
    (∀ p ∈ [(Instr.beq a ra rb off, decide (A = B)), (.bne a ra rb off, decide (A ≠ B)),
            (.blt a ra rb off, decide (A.toInt < B.toInt)), (.bge a ra rb off, decide (B.toInt ≤ A.toInt)),
            (.bltu a ra rb off, decide (A.toNat < B.toNat)), (.bgeu a ra rb off, decide (B.toNat ≤ A.toNat)),
            (.beqi a ra imm off, decide (A.toInt = imm.toInt)), (.bnei a ra imm off, decide (A.toInt ≠ imm.toInt)),
            (.blti a ra imm off, decide (A.toInt < imm.toInt)), (.bgei a ra imm off, decide (imm.toInt ≤ A.toInt))],
      Issued a p.1 4 st.sys s1 → exec p.1 st = go a 4 st s1 (some p.2) p.2 (pc + 2 * off.toInt)) ∧
    Issued a (.br a far) 4 st.sys s1 → exec (.br a far) st = go a 4 st s1 none true (pc + 2 * far.toInt)

/-- R106, R107, R137-R141.
Where the spec leaves a choice, the clauses follow the model's own (log entry 78). -/
def Obligations.CallReturnLoop : Prop :=
  ∀ (a : Issue) (st : State) (s1 : Sys) (ra : Reg) (off : BitVec 28) (e : BitVec 6),
    let k := a.core.val
    let x := s1.ctx k
    let V := s1.gr k ra
    let pushed := s1.modCtx k (fun x => x.setCur { x.cur with rbank := x.cur.rbank ++ [(s1.ctx k).pc + 4] })
    (x.cur.rbank.length < 16 → 0 ≤ x.pc.toNat + 2 * off.toInt → x.pc.toNat + 2 * off.toInt < 2 ^ 36 →
      Issued a (.call a off) 4 st.sys s1 → exec (.call a off) st = doneBy a 4 (.jump (x.pc.toNat + 2 * off.toInt).toNat false) st
        (pushed.learn k none (some (x.pc.toNat + 2 * off.toInt).toNat))) ∧
    (x.cur.rbank.length < 16 → V.getLsbD 0 = false →
      Issued a (.callr a ra) 4 st.sys s1 → exec (.callr a ra) st = doneBy a 4 (.jump V.toNat false) st (pushed.learn k none (some V.toNat))) ∧
    (Issued a (.jr a ra) 4 st.sys s1 → exec (.jr a ra) st = if V.getLsbD 0 then trapBy a { cls := 1, code := 4, faddr := V.toNat } st s1
      else doneBy a 4 (.jump V.toNat true) st (s1.learn k none (some V.toNat))) ∧
    (V.getLsbD 0 = true → Issued a (.callr a ra) 4 st.sys s1 → exec (.callr a ra) st = trapBy a { cls := 1, code := 4, faddr := V.toNat } st s1) ∧
    (∀ (l : List Word) (v : Word), x.cur.rbank = l ++ [v] → v.getLsbD 0 = false →
      Issued a (.ret a) 2 st.sys s1 → exec (.ret a) st = doneBy a 2 (.jump v.toNat false) st (s1.modCtx k (fun y => y.setCur { x.cur with rbank := l }))) ∧
    (∀ (l : List Word) (v : Word), x.cur.rbank = l ++ [v] → v.getLsbD 0 = true →
      Issued a (.ret a) 2 st.sys s1 → exec (.ret a) st = trapBy a { cls := 1, code := 4, faddr := v.toNat } st s1) ∧
    (x.cur.rbank = [] → x.cur.rsb.toNat < x.cur.rsp.toNat →
      ∀ (v : Word) (s2 : Sys), Ends (loadW k (x.cur.rsp.toNat - 4 : Nat)) s1 v s2 →
        Issued a (.ret a) 2 st.sys s1 → exec (.ret a) st = if v.getLsbD 0 then trapBy a { cls := 1, code := 4, faddr := v.toNat } st s2
          else doneBy a 2 (.jump v.toNat false) st (s2.modCtx k (fun y => y.setCur { x.cur with rsp := x.cur.rsp - 4 }))) ∧
    (x.cur.rbank = [] → x.cur.rsp.toNat ≤ x.cur.rsb.toNat →
      Issued a (.ret a) 2 st.sys s1 → exec (.ret a) st = trapBy a { cls := 5, code := 2, faddr := x.cur.rsp.toNat } st s1) ∧
    (ra = 0 → Issued a (.loop a ra e) 4 st.sys s1 → exec (.loop a ra e) st = trapBy a { cls := 1, code := 1 } st s1) ∧
    (ra ≠ 0 → V ≠ 0 →
      Issued a (.loop a ra e) 4 st.sys s1 → exec (.loop a ra e) st = doneBy a 4 (.jump (x.pc + 4).toNat false) st (s1.modCtx k (fun x =>
        { x with lbeg := x.pc + 4, lend := BitVec.ofNat 36 (x.pc.toNat + 4 + 2 * e.toNat),
                 status := setFld (setBit x.status 13 true) 14 18 ra.val })))

/-- R81, R88, R90, R110. -/
def Obligations.ControlRegisterReads : Prop :=
  ∀ (a : Issue) (st : State) (s1 : Sys) (r : Reg) (num : BitVec 9),
    let k := a.core.val
    let x := s1.ctx k
    let priv := trapBy a { cls := 1, code := 3 } st s1
    (∀ q ∈ [(0o000, true, x.status), (0o001, x.sup, x.cur.cause), (0o002, x.sup, x.cur.faddr),
            (0o003, x.sup, BitVec.ofNat 36 (s1.img.shieldO * 2 ^ 18 + s1.img.shieldC)),
            (0o004, x.sup && !x.custody, x.xbaseO), (0o005, x.sup && x.custody, (s1.core k).xbaseC),
            (0o006, x.sup && !x.custody, x.sspO), (0o007, x.sup && x.custody, x.sspC), (0o020, true, x.cur.rsp),
            (0o021, true, x.cur.rsb), (0o022, true, x.cur.rsl), (0o023, true, BitVec.ofNat 36 x.cur.rbank.length),
            (0o030, true, x.lbeg), (0o031, true, x.lend), (0o040, true, x.taskid), (0o041, true, x.partid),
            (0o042, true, s1.coreId k), (0o043, true, s1.cstat k), (0o060, true, x.fsr)],
      Issued a (.getc a r (BitVec.ofNat 9 q.1)) 4 st.sys s1 → exec (.getc a r (BitVec.ofNat 9 q.1)) st = if q.2.1 then doneBy a 4 .seq st (s1.putR k r q.2.2) else priv) ∧
    (s1.ownsD k → Issued a (.getc a r 0o061) 4 st.sys s1 → exec (.getc a r 0o061) st = doneBy a 4 .seq st (s1.putR k r (s1.core k).du.drs)) ∧
    (s1.ownsF k → (Issued a (.getc a r 0o062) 4 st.sys s1 → exec (.getc a r 0o062) st = doneBy a 4 .seq st (s1.putR k r (dw0 (s1.core k).fu.acc))) ∧
      (Issued a (.getc a r 0o063) 4 st.sys s1 → exec (.getc a r 0o063) st = doneBy a 4 .seq st (s1.putR k r (dw1 (s1.core k).fu.acc))) ∧
      (r.val % 2 = 0 → Issued a (.getc2 a r 0o062) 4 st.sys s1 → exec (.getc2 a r 0o062) st = doneBy a 4 .seq st (s1.putP k r (s1.core k).fu.acc))) ∧
    (∀ e : Fin 16, r.val % 2 = 0 → Issued a (.getc2 a r (BitVec.ofNat 9 (0o100 + 2 * e))) 4 st.sys s1 → exec (.getc2 a r (BitVec.ofNat 9 (0o100 + 2 * e))) st =
      if x.sup then doneBy a 4 .seq st (s1.putP k r (tget 0 x.cur.exts e)) else priv) ∧
    (r.val % 2 = 1 → Issued a (.getc2 a r num) 4 st.sys s1 → exec (.getc2 a r num) st = trapBy a { cls := 1, code := 1 } st s1) ∧
    (cregAcc num.toNat = none → (Issued a (.getc a r num) 4 st.sys s1 → exec (.getc a r num) st = trapBy a { cls := 1, code := 2 } st s1) ∧
      Issued a (.putc a r num) 4 st.sys s1 → exec (.putc a r num) st = trapBy a { cls := 1, code := 2 } st s1)

/-- R88, R90, R98, R110, R398, R409. -/
def Obligations.ControlRegisterWrites : Prop :=
  ∀ (a : Issue) (st : State) (s1 : Sys) (r : Reg),
    let k := a.core.val
    let x := s1.ctx k
    let v := s1.gr k r
    let priv := trapBy a { cls := 1, code := 3 } st s1
    let rs (f : WorldRegs → WorldRegs) : Sys := s1.modCtx k (fun x => x.setCur (f { x.cur with rbank := [] }))
    (∀ q ∈ [(0o004, x.sup && !x.custody, s1.modCtx k (fun x => { x with xbaseO := v &&& ~~~1 })),
            (0o005, x.sup && x.custody, s1.modCore k (fun c => { c with xbaseC := v &&& ~~~1 })),
            (0o006, x.sup && !x.custody, s1.modCtx k (fun x => { x with sspO := v })),
            (0o007, x.sup && x.custody, s1.modCtx k (fun x => { x with sspC := v })),
            (0o020, x.sup, rs (fun r => { r with rsp := v &&& ~~~3 })), (0o021, x.sup, rs (fun r => { r with rsb := v &&& ~~~3 })),
            (0o022, x.sup, rs (fun r => { r with rsl := v &&& ~~~3 })),
            (0o060, true, s1.modCtx k (fun x => { x with fsr := v &&& 0o3777 })),
            (0o001, false, s1), (0o002, false, s1), (0o003, false, s1), (0o023, false, s1), (0o040, false, s1),
            (0o041, false, s1), (0o042, false, s1), (0o043, false, s1)],
      Issued a (.putc a r (BitVec.ofNat 9 q.1)) 4 st.sys s1 → exec (.putc a r (BitVec.ofNat 9 q.1)) st = if q.2.1 then doneBy a 4 .seq st q.2.2 else priv) ∧
    (Issued a (.putc a r 0o030) 4 st.sys s1 → exec (.putc a r 0o030) st = doneBy a 4 (.bound false v) st s1) ∧ (Issued a (.putc a r 0o031) 4 st.sys s1 → exec (.putc a r 0o031) st = doneBy a 4 (.bound true v) st s1) ∧
    (s1.ownsD k → Issued a (.putc a r 0o061) 4 st.sys s1 → exec (.putc a r 0o061) st = if 4 ≤ drsLRES v then trapBy a { cls := 1, code := 2 } st s1
      else doneBy a 4 .seq st (s1.modCore k (fun c => { c with du := { c.du with drs := v &&& drsMask } }))) ∧
    (Issued a (.putc a r 0) 4 st.sys s1 → exec (.putc a r 0) st = if 5 ≤ stFRM v then trapBy a { cls := 1, code := 2 } st s1
      else
        let p := if x.sup then setFld x.status 2 12 (fld v 2 12) else setFld x.status 8 12 (fld v 8 12)
        doneBy a 4 .seq st (s1.modCtx k (fun x => { x with shadow := some { pend := p, count := 4 } }))) ∧
    (r.val % 2 = 0 → s1.ownsF k → Issued a (.putc2 a r 0o062) 4 st.sys s1 → exec (.putc2 a r 0o062) st =
      doneBy a 4 .seq st (s1.modCore k (fun c => { c with fu := { c.fu with acc := s1.gp k r } }))) ∧
    ∀ e : Fin 16, r.val % 2 = 0 → (extV (s1.gp k r) = false ∨ s1.extBad x (s1.gp k r) = false) →
      Issued a (.putc2 a r (BitVec.ofNat 9 (0o100 + 2 * e))) 4 st.sys s1 → exec (.putc2 a r (BitVec.ofNat 9 (0o100 + 2 * e))) st = if x.sup then
        doneBy a 4 .seq st ((s1.modCtx k (fun x => x.setCur { x.cur with exts := tset x.cur.exts e (s1.gp k r) })).modCore k
          (fun c => c.forget (fun t => t.bank = s1.bankOf k && t.world = x.custody && t.ext = e)))
        else priv

/-- R109, R329, R341-R346, R378, R434.
Where the spec leaves a choice, the clauses follow the model's own (log entries 8, 13 and 88). -/
def Obligations.SystemInstructions : Prop :=
  ∀ (a : Issue) (st : State) (s1 s2 : Sys) (imm : BitVec 12) (lf : Bool) (i : Nat) (f : List Word),
    let k := a.core.val
    let x := s1.ctx k
    let g (n : Nat) : Word := (f[n]?).getD 0
    let m := min (imm.toNat + 1) (if x.custody then s1.img.shieldC else s1.img.shieldO)
    (Issued a (.svc a imm) 4 st.sys s1 → exec (.svc a imm) st = doneBy a 4 (.svc imm.toNat) st s1) ∧
    (x.sup = false → ∀ j ∈ [Instr.shield a imm, .xret a], Issued a j 4 st.sys s1 → exec j st = trapBy a { cls := 1, code := 3 } st s1) ∧
    (x.sup = true → Issued a (.shield a imm) 4 st.sys s1 → exec (.shield a imm) st = doneBy a 4 .seq st
      (if stSHA x.status = false ∧ m ≠ 0 then s1.modCtx k (fun x => { x with status := setBit x.status 19 true, shield := m }) else s1)) ∧
    (Ends (flushLoop k 16) s1 () s2 → Issued a (.rsflush a) 4 st.sys s1 → exec (.rsflush a) st = doneBy a 4 .seq st s2) ∧
    (Issued a (.fence a lf) (if lf then 4 else 2) st.sys s1 → exec (.fence a lf) st = if (s1.core k).sq = [] then
      doneBy a (if lf then 4 else 2) .seq st s1 else leftBy st (s1.modCore k (fun c => { c with waitc := some (.fence lf) }))) ∧
    (s1.runTask k = some i →
      ((s1.task (clusterOf k) i).events ≠ 0 → Issued a (.wait a lf) (if lf then 4 else 2) st.sys s1 → exec (.wait a lf) st = doneBy a (if lf then 4 else 2) .seq st
        ((s1.putR k 1 (BitVec.ofNat 36 (s1.task (clusterOf k) i).events)).setTask (clusterOf k) i
          (let t := s1.task (clusterOf k) i; { t with events := 0 }))) ∧
      ((s1.task (clusterOf k) i).events = 0 → (a.irqAt = 0 ∨ x.irqDue = none ∨ x.hold = true) → Issued a (.wait a lf) (if lf then 4 else 2) st.sys s1 → exec (.wait a lf) st =
        leftBy st (if stSHA x.status = true ∨ x.shadow ≠ none then s1 else s1.waitBlock k))) ∧
    (x.sup = true → (x.ssp x.custody).toNat % 32 = 0 →
      Ends (loadFrame k (x.ssp x.custody).toNat) s1 f s2 → (x.custody = true ∨ stW (g 1) = false) → kbit (g 0) 35 = false →
      badFrame (g 1) (g 4) (g 5) = false →
      (∀ n, (s2.modCtx k (fun x => x.returned f)).runTask k = some n →
        ((s2.modCtx k (fun x => x.returned f)).task (clusterOf k) n).state = 6 → x.custody = true → x.ovfl ≠ some x.sspC) →
      Issued a (.xret a) 4 st.sys s1 → exec (.xret a) st = doneBy a 4 .returned st (s2.modCtx k (fun x => x.returned f)))

/-- R410-R413, R419, R420.
Where the spec leaves a choice, the clauses follow the model's own (log entry 18). -/
def Obligations.InvalidationsAndKeys : Prop :=
  ∀ (a : Issue) (st : State) (s1 : Sys) (ra rb : Reg),
    let k := a.core.val
    let x := s1.ctx k
    let v := s1.gr k ra
    let w := s1.gr k rb
    let inv (i : InvScope) (p : Option Nat) : Sys :=
      (((s1.invTargets k p).foldl (fun s j => s.modCore j (fun c =>
        { c with invq := c.invq ++ [{ scope := i, src := k, slot := (s1.core k).slot, task := x.taskid }] })) (s1.modCore k (fun c =>
          { c.forget i.hits with ivSt := c.sq.length }))).modCtx k (fun x => { x with ivOut := x.ivOut ++ s1.invTargets k p }))
    let mine : Option Nat := if x.noPart then none else some x.part
    (x.sup = false → ∀ i ∈ [Instr.iva a ra, .ivp a ra, .ivall a, .ivsync a, .skset a ra rb, .skget a ra rb],
      Issued a i 4 st.sys s1 → exec i st = trapBy a { cls := 1, code := 3 } st s1) ∧
    (x.sup = true →
      (Issued a (.iva a ra) 4 st.sys s1 → exec (.iva a ra) st = doneBy a 4 .seq st (inv (.addr x.custody x.partid v.toNat) mine)) ∧
      (Issued a (.ivall a) 4 st.sys s1 → exec (.ivall a) st = doneBy a 4 .seq st (if x.custody then inv .all none else inv (.ofPartid false x.partid) mine)) ∧
      (Issued a (.ivp a ra) 4 st.sys s1 → exec (.ivp a ra) st = (if fld v 0 25 ≠ 0 then trapBy a { cls := 1, code := 2 } st s1
        else if x.custody = false ∧ v ≠ x.partid then trapBy a { cls := 1, code := 3 } st s1
        else doneBy a 4 .seq st (inv (if x.custody then .part (fld v 26 35) else .ofPartid false x.partid) (some (fld v 26 35))))) ∧
      (Issued a (.ivsync a) 4 st.sys s1 → exec (.ivsync a) st = if x.ivOut = [] ∧ (s1.core k).ivSt = 0 then doneBy a 4 .seq st s1
        else leftBy st (s1.modCore k (fun c => { c with waitc := some .ivsync }))) ∧
      (2 ^ 38 ≤ v.toNat → (Issued a (.skget a ra rb) 4 st.sys s1 → exec (.skget a ra rb) st = trapBy a { cls := 1, code := 2 } st s1) ∧
        Issued a (.skset a ra rb) 4 st.sys s1 → exec (.skset a ra rb) st = trapBy a { cls := 1, code := 2 } st s1) ∧
      (v.toNat < 2 ^ 38 → x.custody = false → s1.inRanges x.part v.toNat = false →
        Issued a (.skget a ra rb) 4 st.sys s1 → exec (.skget a ra rb) st = trapBy a { cls := 1, code := 3 } st s1) ∧
      (v.toNat < 2 ^ 38 → (x.custody = true ∨ s1.inRanges x.part v.toNat = true) →
        (let t := s1.fetchFor 0 (s1.keyAddr v.toNat) 1
         Issued a (.skget a ra rb) 4 st.sys s1 → exec (.skget a ra rb) st =
           if t.poisoned (t.keyAddr v.toNat) then trapBy a { cls := 14, code := 4, acc := 2, faddr := v.toNat, info := 704 } st t
           else doneBy a 4 .seq st (t.putR k rb (BitVec.ofNat 36 (t.keyOf v.toNat).toNat))) ∧
        (fld w 0 27 = 0 → (∀ j < 96, ∀ e ∈ (s1.drainAllSq.core j).sq, e.pa / 4096 ≠ v.toNat / 4096) →
          Issued a (.skset a ra rb) 4 st.sys s1 → exec (.skset a ra rb) st = doneBy a 4 .seq st
            ((s1.drainAllSq.wr (s1.drainAllSq.keyAddr v.toNat) [BitVec.ofNat 9 (fld w 27 35)]).dropKey (v.toNat / 4096)))))

/-- R329-R332, R102.
Where the spec leaves a choice, the clauses follow the model's own (log entries 7 and 9). -/
def Obligations.ExceptionEntry : Prop :=
  ∀ (k : Nat) (e : Exc) (w : Bool) (pc : Word) (s s' : Sys) (b : Nat) (x : Ctx),
    s.running k = some (b, x) → (s.core k).sq.length ≤ 44 → Ends (enterM k e w pc) s () s' →
    let y := s'.ctx k
    let sp := x.ssp w - 32
    sp.toNat % 32 = 0 ∧ y.ssp w = sp ∧ y.ssp (!w) = x.ssp (!w) ∧
    (y.world w).cause = causeWord e ∧ (y.world w).faddr = BitVec.ofNat 36 e.faddr ∧ y.world (!w) = x.world (!w) ∧
    stW y.status = w ∧ stSUP y.status = true ∧ stIE y.status = false ∧ stUACC y.status = false ∧ stAKEY y.status = 0 ∧
    stSUBN y.status = stSUBN x.status ∧ stDOVT y.status = stDOVT x.status ∧ stFRM y.status = stFRM x.status ∧
    stLA y.status = false ∧ stLREG y.status = 0 ∧ stSHA y.status = false ∧
    y.pc = s.xbase k x w ∧ y.shadow = none ∧ y.g = x.g ∧
    (s'.core k).sq.map (fun q => q.data) = (s.core k).sq.map (fun q => q.data) ++
      [sylsW pc ++ sylsW (setBit x.status 19 false), sylsW (causeWord e) ++ sylsW (BitVec.ofNat 36 e.faddr),
       (match x.shadow with
        | some sh => sylsW sh.pend ++ sylsW (mkw 36 [(0, 1), (35, sh.count)])
        | none => sylsW (setBit x.status 19 false) ++ sylsW 0), sylsW x.cur.rsp ++ sylsW (x.rdG 30)]

/-- R157, R160. -/
def Obligations.MultiplyResults : Prop :=
  ∀ (a : Issue) (st : State) (s1 : Sys) (rd ra rb : Reg),
    let k := a.core.val
    let A := s1.gr k ra
    let B := s1.gr k rb
    let P := (s1.gp k ra).toNat * (s1.gp k rb).toNat
    let ticked (y : Int) (s : Sys) : Sys := s.modCore k (fun c => { c with cyc := c.cyc + mulCycles y })
    let ill := trapBy a { cls := 1, code := 1 } st s1
    (Issued a (.mul a rd ra rb) 4 st.sys s1 → exec (.mul a rd ra rb) st = doneBy a 4 .seq st (ticked B.toNat (s1.putR k rd (BitVec.ofNat 36 (A.toNat * B.toNat))))) ∧
    (Issued a (.mulh a rd ra rb) 4 st.sys s1 → exec (.mulh a rd ra rb) st =
      doneBy a 4 .seq st (ticked B.toInt (s1.putR k rd (dw0 (BitVec.ofInt 72 (A.toInt * B.toInt)))))) ∧
    (Issued a (.mulhu a rd ra rb) 4 st.sys s1 → exec (.mulhu a rd ra rb) st =
      doneBy a 4 .seq st (ticked B.toNat (s1.putR k rd (dw0 (BitVec.ofNat 72 (A.toNat * B.toNat)))))) ∧
    (Issued a (.mulw a rd ra rb) 4 st.sys s1 → exec (.mulw a rd ra rb) st = if rd.val % 2 = 0 then
      doneBy a 4 .seq st (ticked B.toInt (s1.putP k rd (BitVec.ofInt 72 (A.toInt * B.toInt)))) else ill) ∧
    (Issued a (.mulwu a rd ra rb) 4 st.sys s1 → exec (.mulwu a rd ra rb) st = if rd.val % 2 = 0 then
      doneBy a 4 .seq st (ticked B.toNat (s1.putP k rd (BitVec.ofNat 72 (A.toNat * B.toNat)))) else ill) ∧
    (Issued a (.muld a rd ra rb) 4 st.sys s1 → exec (.muld a rd ra rb) st = if rd.val % 2 = 0 ∧ ra.val % 2 = 0 ∧ rb.val % 2 = 0 then
      doneBy a 4 .seq st (ticked (s1.gp k rb).toNat (s1.putP k rd (BitVec.ofNat 72 P))) else ill)

/-- R158, R159, R161, R165.
Where the spec leaves a choice, the clauses follow the model's own (log entry 30). -/
def Obligations.DivideResults : Prop :=
  ∀ (a : Issue) (st : State) (s1 : Sys) (rd ra rb : Reg),
    let k := a.core.val
    let A := s1.gr k ra
    let B := s1.gr k rb
    let C := s1.gp k ra
    let D := s1.gp k rb
    let go (x y : Int) (wide : Bool) (s : Sys) : Out :=
      if y = 0 then trapBy a { cls := 6, code := 2 } st s1
      else doneBy a 4 .seq st (s.modCore k (fun c => { c with cyc := c.cyc +
        (if x.natAbs < y.natAbs then 4 else if (s1.core k).divm then (if wide then 75 else 39) else (if wide then 21 else 14)) }))
    let ill := trapBy a { cls := 1, code := 1 } st s1
    (Issued a (.div a rd ra rb) 4 st.sys s1 → exec (.div a rd ra rb) st = go A.toInt B.toInt false (s1.putR k rd (BitVec.ofInt 36 (A.toInt.tdiv B.toInt)))) ∧
    (Issued a (.divu a rd ra rb) 4 st.sys s1 → exec (.divu a rd ra rb) st = go A.toNat B.toNat false (s1.putR k rd (BitVec.ofNat 36 (A.toNat / B.toNat)))) ∧
    (Issued a (.rem a rd ra rb) 4 st.sys s1 → exec (.rem a rd ra rb) st = go A.toInt B.toInt false (s1.putR k rd (BitVec.ofInt 36 (A.toInt.tmod B.toInt)))) ∧
    (Issued a (.remu a rd ra rb) 4 st.sys s1 → exec (.remu a rd ra rb) st = go A.toNat B.toNat false (s1.putR k rd (BitVec.ofNat 36 (A.toNat % B.toNat)))) ∧
    (Issued a (.divrem a rd ra rb) 4 st.sys s1 → exec (.divrem a rd ra rb) st = if rd.val % 2 = 0 then go A.toInt B.toInt false (s1.putP k rd
      (mkd (BitVec.ofInt 36 (A.toInt.tdiv B.toInt)) (BitVec.ofInt 36 (A.toInt.tmod B.toInt)))) else ill) ∧
    (Issued a (.divremu a rd ra rb) 4 st.sys s1 → exec (.divremu a rd ra rb) st = if rd.val % 2 = 0 then go A.toNat B.toNat false (s1.putP k rd
      (mkd (BitVec.ofNat 36 (A.toNat / B.toNat)) (BitVec.ofNat 36 (A.toNat % B.toNat)))) else ill) ∧
    ∀ p ∈ [(Instr.divd a rd ra rb, C.toInt, D.toInt, BitVec.ofInt 72 (C.toInt.tdiv D.toInt)),
           (.remd a rd ra rb, C.toInt, D.toInt, BitVec.ofInt 72 (C.toInt.tmod D.toInt)),
           (.divdu a rd ra rb, (C.toNat : Int), (D.toNat : Int), BitVec.ofNat 72 (C.toNat / D.toNat)),
           (.remdu a rd ra rb, (C.toNat : Int), (D.toNat : Int), BitVec.ofNat 72 (C.toNat % D.toNat))],
      Issued a p.1 4 st.sys s1 → exec p.1 st = if rd.val % 2 = 0 ∧ ra.val % 2 = 0 ∧ rb.val % 2 = 0 then go p.2.1 p.2.2.1 true (s1.putP k rd p.2.2.2) else ill

/-- R162, R164, R176-R178.
Where the spec leaves a choice, the clauses follow the model's own (log entries 29 and 30). -/
def Obligations.MultiplyAccumulate : Prop :=
  (∀ (a : Issue) (st : State) (s1 s2 : Sys) (ra rb : Reg) (uns clr inc : Bool) (x y : Word),
    let k := a.core.val
    let ga := s1.gr k ra
    let gb := s1.gr k rb
    let val (w : Word) : Int :=
      let w := if clr then w &&& 0o377377377377 else w
      if uns then (w.toNat : Int) else w.toInt
    let acc : DWord := (s2.core k).fu.acc
    let t : Int := (if uns then (acc.toNat : Int) else acc.toInt) + val x * val y
    let fits := if uns then t < (2 ^ 72 : Int) else -(2 ^ 71 : Int) ≤ t ∧ t < (2 ^ 71 : Int)
    let s4 := if fits then s2 else s2.modCtx k (fun x => { x with fsr := setBit x.fsr 25 true })
    let s5 := s4.modCore k (fun c => { c with fu := { c.fu with acc := BitVec.ofInt 72 t } })
    s1.ownsF k →
      (Ends (macLoads k ga gb) s1 (x, y) s2 → Issued a (.mac2 a ra rb uns clr inc) 4 st.sys s1 → exec (.mac2 a ra rb uns clr inc) st = doneBy a 4 .seq st
        (if inc then (s5.putR k ra (ga + 4)).putR k rb (gb + 4) else s5)) ∧
      ∀ e, Meets (macLoads k ga gb) s1 e s2 → Issued a (.mac2 a ra rb uns clr inc) 4 st.sys s1 → exec (.mac2 a ra rb uns clr inc) st = trapBy a e st s2) ∧
  (∀ (k : Nat) (ga gb : Word) (s s2 s3 s4 s5 : Sys) (p q : Nat × Nat) (l m : List Syl) (e : Exc),
    (Meets (macPlace k ga) s e s2 → Meets (macLoads k ga gb) s e { s with free := s2.free }) ∧
    (Ends (macPlace k ga) s p s2 → Meets (macPlace k gb) s2 e s3 → Meets (macLoads k ga gb) s e { s with free := s3.free }) ∧
    (Ends (macPlace k ga) s p s2 → Ends (macPlace k gb) s2 q s3 →
      Ends (loadPhys k (s3.ctx k) p.2 4 p.1 2 false) s3 l s4 → Ends (loadPhys k (s3.ctx k) q.2 4 q.1 2 false) s4 m s5 →
      Ends (macLoads k ga gb) s (wordOf l, wordOf m) s5)) ∧
  ∀ (k : CoreId) (n : Nat) (pass : Bool) (st : State), (st.sys.core k).slot = some n → (st.sys.core k).divm = true →
    (st.sys.slot n).divFails < 3 →
    ∃ t, exec (.dividerReload k pass) st = .next t ∧ t.sys.tansy.divReloads = st.sys.tansy.divReloads + 1 ∧
      (t.sys.core k).divm = !pass ∧ (t.sys.slot n).divBad = (!pass && (st.sys.slot n).divBad) ∧ (t.sys.slot n).divFails = (st.sys.slot n).divFails + (if pass then 0 else 1)

/-- R166-R172.
Where the spec leaves a choice, the clauses follow the model's own (log entry 31). -/
def Obligations.FloatArithmetic : Prop :=
  ∀ (a : Issue) (st : State) (s1 : Sys) (lg : Bool) (rd ra rb : Reg),
    let k := a.core.val
    let x := s1.ctx k
    let t := if lg then longF else shortF
    let raw (r : Reg) : Nat := (if lg then tget 0 (s1.core k).fu.fr r else tget 0 (s1.core k).fu.fr r >>> 36).toNat
    let arg (r : Reg) : Nat := t.flush (raw r)
    let sub (r : Reg) : Bool := !stSUBN x.status && t.isSub (raw r)
    let frm := stFRM x.status
    let trap (c : Nat) (s : Sys) := trapBy a { cls := 6, code := c } st s
    let fin' (r : FRes) (n : Nat) : Out :=
      let s2 := if n = 0 then s1 else s1.modCore k (fun c => { c with cyc := c.cyc + n })
      let r := if stSUBN x.status then t.flushRes r else r
      if fsrTraps x.fsr r.fl then trap 3 s2
      else if r.sub then trap 4 s2
      else
        let v : DWord := if lg then BitVec.ofNat 72 r.bits else mkd (BitVec.ofNat 36 r.bits) 0
        doneBy a 4 .seq st ((s2.modCore k (fun c => { c with fu := { c.fu with fr := tset c.fu.fr rd v } })).modCtx k
          (fun x => { x with fsr := fsrOr x.fsr r.fl }))
    let two (r : Nat → Nat → FRes) (n : Nat) : Out := if sub ra || sub rb then trap 4 s1 else fin' (r (arg ra) (arg rb)) n
    let one (r : Nat → FRes) (n : Nat) : Out := if sub ra then trap 4 s1 else fin' (r (arg ra)) n
    (rd.val < 16 → ra.val < 16 → rb.val < 16 → s1.ownsF k →
      (Issued a (.fadd a lg rd ra rb) 4 st.sys s1 → exec (.fadd a lg rd ra rb) st = two (fAdd t frm) 0) ∧ (Issued a (.fsub a lg rd ra rb) 4 st.sys s1 → exec (.fsub a lg rd ra rb) st = two (fSub t frm) 0) ∧
      (Issued a (.fmul a lg rd ra rb) 4 st.sys s1 → exec (.fmul a lg rd ra rb) st = two (fMul t frm) 0) ∧ (Issued a (.fmin a lg rd ra rb) 4 st.sys s1 → exec (.fmin a lg rd ra rb) st = two (fMinMax t false) 0) ∧
      (Issued a (.fmax a lg rd ra rb) 4 st.sys s1 → exec (.fmax a lg rd ra rb) st = two (fMinMax t true) 0) ∧ (Issued a (.frint a lg rd ra) 4 st.sys s1 → exec (.frint a lg rd ra) st = one (fRint t frm) 0) ∧
      (Issued a (.fdiv a lg rd ra rb) 4 st.sys s1 → exec (.fdiv a lg rd ra rb) st = two (fDiv t frm)
        (if (s1.core k).divm then (if lg then 66 else 33) else (if lg then 21 else 14))) ∧
      Issued a (.fsqrt a lg rd ra) 4 st.sys s1 → exec (.fsqrt a lg rd ra) st = one (fSqrt t frm)
        (if (s1.core k).divm then (if lg then 66 else 33) else (if lg then 24 else 16))) ∧
    (16 ≤ rd.val ∨ 16 ≤ ra.val → ∀ i ∈ [Instr.fadd a lg rd ra rb, .fsub a lg rd ra rb, .fmul a lg rd ra rb,
        .fdiv a lg rd ra rb, .fmin a lg rd ra rb, .fmax a lg rd ra rb, .frint a lg rd ra, .fsqrt a lg rd ra,
        .fabs a lg rd ra, .fneg a lg rd ra, .fmov a lg rd ra],
      Issued a i 4 st.sys s1 → exec i st = trapBy a { cls := 1, code := 1 } st s1)

/-- R166, R168-R175, R70-R72.
Where the spec leaves a choice, the clauses follow the model's own (log entry 31). -/
def Obligations.FloatMovesAndConversions : Prop :=
  ∀ (a : Issue) (st : State) (s1 s2 : Sys) (lg : Bool) (rd ra rb : Reg) (disp : BitVec 18), s1.ownsF a.core →
    let k := a.core.val
    let x := s1.ctx k
    let fr (r : Reg) : DWord := tget 0 (s1.core k).fu.fr r
    let fmt (l : Bool) : Fmt := if l then longF else shortF
    let raw (l : Bool) (r : Reg) : Nat := if l then (fr r).toNat else (fr r >>> 36).toNat
    let sub (l : Bool) (r : Reg) : Bool := !stSUBN x.status && (fmt l).isSub (raw l r)
    let frm := stFRM x.status
    let setF (r : Reg) (v : DWord) (s : Sys) : Sys := s.modCore k (fun c => { c with fu := { c.fu with fr := tset c.fu.fr r v } })
    let putF (l : Bool) (r : Reg) (b : Nat) : Sys := setF r (if l then BitVec.ofNat 72 b else mkd (BitVec.ofNat 36 b) 0) s1
    let fin' (fl : FFlags) (below : Bool) (s : Sys) : Out :=
      if fsrTraps x.fsr fl then trapBy a { cls := 6, code := 3 } st s1
      else if below then trapBy a { cls := 6, code := 4 } st s1
      else doneBy a 4 .seq st (s.modCtx k (fun x => { x with fsr := fsrOr x.fsr fl }))
    let out (l : Bool) (r : FRes) : Out :=
      let r := if stSUBN x.status then (fmt l).flushRes r else r
      fin' r.fl r.sub (putF l rd r.bits)
    let guard (l : Bool) (r : Reg) (o : Out) : Out := if sub l r then trapBy a { cls := 6, code := 4 } st s1 else o
    let arg (l : Bool) (r : Reg) : Nat := (fmt l).flush (raw l r)
    (rd.val < 16 → ra.val < 16 →
      (Issued a (.fabs a lg rd ra) 4 st.sys s1 → exec (.fabs a lg rd ra) st = doneBy a 4 .seq st (putF lg rd (raw lg ra % 2 ^ (if lg then 71 else 35)))) ∧
      (Issued a (.fneg a lg rd ra) 4 st.sys s1 → exec (.fneg a lg rd ra) st = doneBy a 4 .seq st (putF lg rd ((fmt lg).flip (raw lg ra)))) ∧
      (Issued a (.fmov a lg rd ra) 4 st.sys s1 → exec (.fmov a lg rd ra) st = doneBy a 4 .seq st (putF lg rd (raw lg ra))) ∧
      (Issued a (.fcvtsl a rd ra) 4 st.sys s1 → exec (.fcvtsl a rd ra) st = guard false ra (out true (fConvert shortF longF frm true (arg false ra)))) ∧
      Issued a (.fcvtls a rd ra) 4 st.sys s1 → exec (.fcvtls a rd ra) st = guard true ra (out false (fConvert longF shortF frm true (arg true ra)))) ∧
    (ra.val < 16 → rb.val < 16 → ∀ p ∈ [(Instr.fcmp a lg rd ra rb, false), (.fcmps a lg rd ra rb, true)],
      let r := fCompare (fmt lg) p.2 (arg lg ra) (arg lg rb)
      Issued a p.1 4 st.sys s1 → exec p.1 st = if sub lg ra || sub lg rb then trapBy a { cls := 6, code := 4 } st s1
        else fin' r.2 false (s1.putR k rd r.1)) ∧
    (rd.val < 16 →
      (Issued a (.fcvtws a rd ra) 4 st.sys s1 → exec (.fcvtws a rd ra) st = out false (intToF shortF frm (s1.gr k ra).toInt)) ∧
      (Issued a (.fcvtwl a rd ra) 4 st.sys s1 → exec (.fcvtwl a rd ra) st = out true (intToF longF frm (s1.gr k ra).toInt)) ∧
      (ra.val % 2 = 0 → Issued a (.fcvtdl a rd ra) 4 st.sys s1 → exec (.fcvtdl a rd ra) st = out true (intToF longF frm (s1.gp k ra).toInt)) ∧
      (Issued a (.mvgs a rd ra) 4 st.sys s1 → exec (.mvgs a rd ra) st = doneBy a 4 .seq st (setF rd (mkd (s1.gr k ra) 0) s1)) ∧
      (ra.val % 2 = 0 → Issued a (.mvgl a rd ra) 4 st.sys s1 → exec (.mvgl a rd ra) st = doneBy a 4 .seq st (setF rd (s1.gp k ra) s1)) ∧
      (ra.val % 2 = 0 → Issued a (.f64tol a rd ra) 4 st.sys s1 → exec (.f64tol a rd ra) st =
        (let r := fConvert binary64 longF 0 false (octetForm (s1.gp k ra)); fin' r.fl false (putF true rd r.bits))) ∧
      (∀ v, Ends (loadD k ((s1.gr k rb).toNat + disp.toInt)) s1 v s2 →
        Issued a (.fld a rd rb disp) 4 st.sys s1 → exec (.fld a rd rb disp) st = doneBy a 4 .seq st (setF rd v s2)) ∧
      (Ends (storeN k ((s1.gr k rb).toNat + disp.toInt) (sylsD (fr rd))) s1 () s2 →
        Issued a (.fst a rd rb disp) 4 st.sys s1 → exec (.fst a rd rb disp) st = doneBy a 4 .seq st s2)) ∧
    (ra.val < 16 →
      (∀ p ∈ [(Instr.fcvtsw a rd ra, false, frm), (.fcvtswz a rd ra, false, 2), (.fcvtlw a rd ra, true, frm),
              (.fcvtlwz a rd ra, true, 2)],
        let r := fToInt (fmt p.2.1) p.2.2 36 (arg p.2.1 ra)
        Issued a p.1 4 st.sys s1 → exec p.1 st = guard p.2.1 ra (fin' r.2 false (s1.putR k rd (BitVec.ofInt 36 r.1)))) ∧
      (rd.val % 2 = 0 → ∀ p ∈ [(Instr.fcvtld a rd ra, frm), (.fcvtldz a rd ra, 2)],
        let r := fToInt longF p.2 72 (arg true ra)
        Issued a p.1 4 st.sys s1 → exec p.1 st = guard true ra (fin' r.2 false (s1.putP k rd (BitVec.ofInt 72 r.1)))) ∧
      (Issued a (.mvsg a rd ra) 4 st.sys s1 → exec (.mvsg a rd ra) st = doneBy a 4 .seq st (s1.putR k rd (fr ra >>> 36).toNat)) ∧
      (rd.val % 2 = 0 → Issued a (.mvlg a rd ra) 4 st.sys s1 → exec (.mvlg a rd ra) st = doneBy a 4 .seq st (s1.putP k rd (fr ra))) ∧
      (rd.val % 2 = 0 → Issued a (.ltof64 a rd ra) 4 st.sys s1 → exec (.ltof64 a rd ra) st =
        (let r := fConvert longF binary64 frm true (raw true ra)
         fin' r.fl false (s1.putP k rd (pairOf (ofOctets 8 r.bits))))))

/-- R62, R188-R191, R195.
Where the spec leaves a choice, the clauses follow the model's own (log entries 34, 83, 86 and 87). -/
def Obligations.DecimalOperandAndResultRules : Prop :=
  (∀ (k : Nat) (p : Span) (s s' : Sys) (l : List Syl), Ends (p.read k) s l s' →
    (∀ i, packedBad (l.map octet) 0 = some i →
      Meets (packedIn k p) s { cls := 7, code := 1, faddr := (p.va + i) % 2 ^ 36 } s') ∧
    (packedBad (l.map octet) 0 = none → Ends (packedIn k p) s (packedVal (l.map octet)) s')) ∧
  (∀ (k d : Nat) (v : Int) (inx : Bool) (s : Sys),
    let ovf := decOverflows v.natAbs d
    let w := withSign (decide (v < 0)) (v.natAbs % 10 ^ d)
    let D := setDINX (s.core k).du.drs inx
    (ovf = true → stDOVT (s.ctx k).status = true → Meets (decOut k d v inx) s { cls := 7, code := 4 } s) ∧
    (ovf = false ∨ stDOVT (s.ctx k).status = false → Ends (decOut k d v inx) s w
      (s.modCore k (fun c => { c with du := { c.du with
        drs := if ovf then setLRES (setDOV D) 3 else setLRES D (lresOf w) } })))) ∧
  ∀ (k n : Nat) (p : Span) (v w : Int) (inx : Bool) (s s1 s2 s3 : Sys), Ends (p.ready k) s () s1 →
    (∀ e, Meets (decOut k (2 * n - 1) v inx) s1 e s2 → Meets (packedOut k p n v inx) s e s2) ∧
    (Ends (decOut k (2 * n - 1) v inx) s1 w s2 →
      Ends (p.writeOctets k (packedOf n w.natAbs (decide (w < 0)))) s2 () s3 → Ends (packedOut k p n v inx) s () s3)

/-- R126, R184, R192-R200.
Where the spec leaves a choice, the clauses follow the model's own (log entries 33 and 36). -/
def Obligations.DecimalMemoryResults : Prop :=
  ∀ (a : Issue) (st : State) (s1 s2 s4 s5 : Sys) (ra rb : Reg) (la lb : BitVec 6) (p : Span × Span) (x y : Int) (e : Exc),
   
    let k := a.core.val
    let n := 2 + ceil16 (maxDigits la lb)
    let fin (n : Nat) (s : Sys) : Out := doneBy a 4 .seq st (s.decDone k n)
    (32 ≤ la.toNat ∨ 32 ≤ lb.toNat → ∀ i ∈ [Instr.dadd a ra rb la lb, .dsub a ra rb la lb, .dzap a ra rb la lb,
        .dcmp a ra rb la lb, .dmul a ra rb la lb, .dmulr a ra rb la lb, .ddiv a ra rb la lb, .ddivr a ra rb la lb,
        .drem a ra rb la lb], Issued a i 4 st.sys s1 → exec i st = trapBy a { cls := 1, code := 1 } st s1) ∧
    (Both k ra rb la lb true s1 p x y s4 →
      (∀ q ∈ [(Instr.dadd a ra rb la lb, x + y, n), (.dsub a ra rb la lb, x - y, n),
              (.dmul a ra rb la lb, x * y, mulDecCycles 4 la lb y)],
        (Ends (packedOut k p.1 (lenOf la) q.2.1 false) s4 () s5 → Issued a q.1 4 st.sys s1 → exec q.1 st = fin q.2.2 s5) ∧
        (Meets (packedOut k p.1 (lenOf la) q.2.1 false) s4 e s5 → Issued a q.1 4 st.sys s1 → exec q.1 st = trapBy a e st s5)) ∧
      (let u := (s4.core k).du.drs
       match tfind s4.tabs.rules (drsRULE u) with
       | none => Issued a (.dmulr a ra rb la lb) 4 st.sys s1 → exec (.dmulr a ra rb la lb) st = trapBy a { cls := 7, code := 2 } st s4
       | some r => Ends (packedOut k p.1 (lenOf la) (rnd r (x * y) (drsSCALE u)).1 (rnd r (x * y) (drsSCALE u)).2) s4 () s5 →
           Issued a (.dmulr a ra rb la lb) 4 st.sys s1 → exec (.dmulr a ra rb la lb) st = fin (mulDecCycles 6 la lb y) s5)) ∧
    (Both k ra rb la lb false s1 p x y s4 → Issued a (.dcmp a ra rb la lb) 4 st.sys s1 → exec (.dcmp a ra rb la lb) st = fin n (s4.putR k 1 (cmpWord x y))) ∧
    (Ends (twoSpans k ra rb la lb false true) s1 p s2 → Ends (packedIn k p.2) s2 y s4 →
      Ends (packedOut k p.1 (lenOf la) y false) s4 () s5 → Issued a (.dzap a ra rb la lb) 4 st.sys s1 → exec (.dzap a ra rb la lb) st = fin n s5)

/-- R201-R206.
Where the spec leaves a choice, the clauses follow the model's own (log entry 33). -/
def Obligations.DecimalDivides : Prop :=
  ∀ (a : Issue) (st : State) (s1 s2 s4 s5 : Sys) (ra rb : Reg) (la lb : BitVec 6) (p : Span × Span) (x y : Int) (rule : Word),
   s1.ownsD a.core → Ends (twoSpans a.core ra rb la lb true true) s1 p s2 →
    ∀ q ∈ [(Instr.ddiv a ra rb la lb, DivFn.div), (.ddivr a ra rb la lb, .divr), (.drem a ra rb la lb, .rem)],
    let k := a.core.val
    let c := s1.ctx k
    let u := (s2.core k).du
    let sc := drsSCALE u.drs
    let hd := u.held.filter (fun h => h.matches c q.2 (c.rdG ra) (c.rdG rb) la lb u.drs)
    let done := (hd.map (fun h => h.qdone)).getD 0
    let r := divResult q.2 rule sc x y
    let m := divPositions sc x y
    let pt := done + 16 * a.irqAt
    let w := progressWord pt m
    let nh : HeldDiv :=
      { pc := c.pc, ga := c.rdG ra, gb := c.rdG rb, fn := q.2.code, la := la.toNat, lb := lb.toNat, scale := sc,
        rule := drsRULE u.drs, qdone := pt, qtot := m, a := x, b := y, word := w }
    (match hd with
     | some h => x = h.a ∧ y = h.b ∧ s4 = s2
     | none => ∃ s3, Ends (packedIn k p.1) s2 x s3 ∧ Ends (packedIn k p.2) s3 y s4) →
    (if q.2 = .divr then tfind s4.tabs.rules (drsRULE (s4.core k).du.drs) = some rule else rule = 0) →
    (y = 0 → Issued a q.1 4 st.sys s1 → exec q.1 st = trapBy a { cls := 7, code := 3 } st s4) ∧
    (y ≠ 0 → a.irqAt ≠ 0 → pt < m → c.irqDue.isSome = true → Issued a q.1 4 st.sys s1 → exec q.1 st = leftBy st (Sys.takeIrq k
      (((s4.modCore k (fun o => { o with du := { o.du with held := some nh } })).putR k 1 w).modCore k
        (fun o => { o with cyc := o.cyc + (6 + 3 * (pt - done)) })))) ∧
    (y ≠ 0 → (a.irqAt = 0 ∨ m ≤ pt ∨ c.irqDue = none) →
      (decOverflows r.1.natAbs (2 * lenOf la - 1) = true → stDOVT c.status = true → Issued a q.1 4 st.sys s1 → exec q.1 st = leftBy st
        (Sys.takeExc k { cls := 7, code := 4 } (((Sys.undo k s1 s4).putR k 1 0).modCore k
          (fun o => { o with du := { o.du with held := none } })))) ∧
      (decOverflows r.1.natAbs (2 * lenOf la - 1) = false ∨ stDOVT c.status = false →
        Ends (packedOut k p.1 (lenOf la) r.1 r.2) s4 () s5 →
        Issued a q.1 4 st.sys s1 → exec q.1 st = doneBy a 4 .seq st ((s5.putR k 1 0).decDone k (6 + 3 * (m - done)))))

/-- R120, R126, R183, R185-R187, R207-R210. -/
def Obligations.DecimalUnaryResults : Prop :=
  ∀ (a : Issue) (st : State) (s1 s2 s3 s4 s5 : Sys) (ra rb : Reg) (la lb : BitVec 6) (p : Span) (pp : Span × Span)
    (x y w : Int) (r : Word),
    let k := a.core.val
    let cy := ceil16 (2 * lenOf la - 1)
    let cv := 4 + (2 * lenOf la - 1 + 3) / 4
    let fin (n : Nat) (s : Sys) : Out := doneBy a 4 .seq st (s.decDone k n)
    let setU (f : DUnit → DUnit) (s : Sys) : Sys := s.modCore k (fun c => { c with du := f c.du })
    let ruled (s : Sys) : Prop := tfind s.tabs.rules (drsRULE (s.core k).du.drs) = some r
    (
      (32 ≤ la.toNat → ∀ i ∈ [Instr.dtst a ra la, .dlda a ra la, .dsta a ra la, .dsr a ra rb la, .cvpb a ra rb la,
        .cvbp a ra rb la, .pack a ra rb la lb, .dmac a ra rb la lb false false], Issued a i 4 st.sys s1 → exec i st = trapBy a { cls := 1, code := 1 } st s1) ∧
      (s1.ownsD k → Issued a (.dclra a) 4 st.sys s1 → exec (.dclra a) st =
        doneBy a 4 .seq st ((setU (fun u => { u with dacc := 0, held := none }) s1).modCore k (fun c => { c with cyc := c.cyc + 1 }))) ∧
      (Ends (oneSpan k ra la 2) s1 p s2 → Ends (packedIn k p) s2 x s3 →
        (Issued a (.dtst a ra la) 4 st.sys s1 → exec (.dtst a ra la) st = fin (2 + cy) (s3.putR k 1 (cmpWord x 0))) ∧
        (Issued a (.dlda a ra la) 4 st.sys s1 → exec (.dlda a ra la) st = (if decOverflows x.natAbs 31 then trapBy a { cls := 7, code := 2 } st s3
          else fin (2 + cy) (setU (fun u => { u with dacc := x, drs := setLRES u.drs (lresOf x) }) s3))) ∧
        (rb.val % 2 = 0 → Issued a (.cvpb a ra rb la) 4 st.sys s1 → exec (.cvpb a ra rb la) st =
          (let ovf := decide (x < -(2 ^ 71 : Int) ∨ (2 ^ 71 : Int) ≤ x)
           if ovf = true ∧ stDOVT (s3.ctx k).status = true then trapBy a { cls := 7, code := 4 } st s3
           else doneBy a 4 .seq st (((setU (fun u => { u with
               drs := if ovf then setLRES (setDOV u.drs) 3 else setLRES u.drs (lresOf x), held := none }) s3).putP k rb
             (BitVec.ofInt 72 x)).modCore k (fun c => { c with cyc := c.cyc + cv }))))) ∧
      (Ends (oneSpan k ra la 3) s1 p s2 →
        (rb.val % 2 = 0 → Ends (packedOut k p (lenOf la) (s2.gp k rb).toInt false) s2 () s3 →
          Issued a (.cvbp a ra rb la) 4 st.sys s1 → exec (.cvbp a ra rb la) st = fin cv s3) ∧
        (ruled s2 →
          let v := rnd r (s2.core k).du.dacc (drsSCALE (s2.core k).du.drs)
          Ends (packedOut k p (lenOf la) v.1 v.2) s2 () s3 → Issued a (.dsta a ra la) 4 st.sys s1 → exec (.dsta a ra la) st = fin 6 s3)) ∧
      (la.toNat < 32 → s1.ownsD k → Ends (spanRw k (s1.gr k ra).toNat (lenOf la)) s1 p s2 → Ends (packedIn k p) s2 x s3 →
        let n := (s2.gr k rb).toInt
        (n < -63 ∨ 63 < n → Issued a (.dsr a ra rb la) 4 st.sys s1 → exec (.dsr a ra rb la) st = trapBy a { cls := 7, code := 2 } st s3) ∧
        (0 ≤ n → n ≤ 63 → Ends (packedOut k p (lenOf la) (x * 10 ^ n.toNat) false) s3 () s4 →
          Issued a (.dsr a ra rb la) 4 st.sys s1 → exec (.dsr a ra rb la) st = fin (3 + cy) s4) ∧
        (-63 ≤ n → n < 0 → ruled s3 →
          Ends (packedOut k p (lenOf la) (rnd r x n.natAbs).1 (rnd r x n.natAbs).2) s3 () s4 →
          Issued a (.dsr a ra rb la) 4 st.sys s1 → exec (.dsr a ra rb la) st = fin (3 + cy) s4)) ∧
      (la.toNat < 8 → lb.toNat < 8 → Both k ra rb la lb false s1 pp x y s4 → ∀ neg : Bool,
        Ends (decOut k 31 ((s4.core k).du.dacc + (if neg then -(x * y) else x * y)) false) s4 w s5 →
        let t := setU (fun u => { u with dacc := w, held := none }) s5
        (Issued a (.dmac a ra rb la lb neg false) 4 st.sys s1 → exec (.dmac a ra rb la lb neg false) st = doneBy a 4 .seq st t) ∧
        (ra ≠ rb → Issued a (.dmac a ra rb la lb neg true) 4 st.sys s1 → exec (.dmac a ra rb la lb neg true) st = doneBy a 4 .seq st
          ((t.putR k rb (t.gr k rb + BitVec.ofNat 36 (lenOf lb))).putR k ra (t.gr k ra + BitVec.ofNat 36 (lenOf la)))) ∧
        (ra = rb → Issued a (.dmac a ra rb la lb neg true) 4 st.sys s1 → exec (.dmac a ra rb la lb neg true) st = doneBy a 4 .seq st
          (t.putR k ra (t.gr k ra + BitVec.ofNat 36 (lenOf la))))) ∧
      (s1.ownsD k → la.toNat < 32 → lb.toNat < 63 → Ends (spanXl k 3 (s1.gr k ra).toNat (lenOf la)) s1 p s2 →
        ∀ pb, Ends (spanXl k 2 (s1.gr k rb).toNat (lenOf lb)) s2 pb s3 → Ends (zonedIn k pb) s3 y s4 →
        Ends (packedOut k p (lenOf la) y false) s4 () s5 →
        Issued a (.pack a ra rb la lb) 4 st.sys s1 → exec (.pack a ra rb la lb) st = fin (2 + ceil16 (max (2 * lenOf la - 1) (lenOf lb))) s5) ∧
      (s1.ownsD k → la.toNat < 63 → lb.toNat < 32 → Ends (spanXl k 3 (s1.gr k ra).toNat (lenOf la)) s1 p s2 →
        ∀ pb, Ends (spanXl k 2 (s1.gr k rb).toNat (lenOf lb)) s2 pb s3 → Ends (packedIn k pb) s3 y s4 →
        let n := 2 + ceil16 (max (lenOf la) (2 * lenOf lb - 1))
        (Ends (zonedOut k p (lenOf la) y false) s4 () s5 → Issued a (.unpk a ra rb la lb) 4 st.sys s1 → exec (.unpk a ra rb la lb) st = fin n s5) ∧
        (Ends (zonedOut k p (lenOf la) (y.natAbs : Int) true) s4 () s5 → Issued a (.unpku a ra rb la lb) 4 st.sys s1 → exec (.unpku a ra rb la lb) st = fin n s5))) ∧
    (s1.ownsD k → ra.val % 2 = 0 → rb.val % 2 = 0 →
      Ends (pairIn k ra) s1 x s1 → Ends (pairIn k rb) s1 y s1 →
      ∀ q ∈ [(Instr.daddr a ra rb, x + y), (.dsubr a ra rb, x - y)], Ends (decOut k 15 q.2 false) s1 w s2 →
        Issued a q.1 2 st.sys s1 → exec q.1 st = doneBy a 2 .seq st
          ((s2.putP k ra (pairOf (packedOf 8 w.natAbs (decide (w < 0))))).decDone k 3))

/-- R211-R222, R235, R240, R244, R247.
Where the spec leaves a choice, the clauses follow the model's own (log entry 35). -/
def Obligations.StringInstructions : Prop :=
  ∀ (a : Issue) (st : State) (s1 : Sys) (lf d : Bool) (p : BitVec 4),
    let k := a.core.val
    let x := s1.ctx k
    let n := if lf then 4 else 2
    let ok := kbit (x.rdG 1) 0 = false ∨ fld (x.rdG 1) 4 11 = 0
    let spec (i : Instr) (len : Nat) : Prop := Issued a i len st.sys s1 → exec i st = trapBy a { cls := 8, code := 2 } st s1
    let pat := st.sys.pattern p.toNat
    (∀ q ∈ [(Instr.mvs a lf, n, ok, startPlain k 4, fun (_ : List Syl) => mvsOp k),
        (.mvf a lf, n, ok, startPlain k 4, fun _ => mvfOp k), (.trs a lf, n, ok, tableM k, trsOp k),
        (.scn a lf, n, ok ∧ fld (x.rdG 3) 0 27 = 0, tableM k, scnOp k),
        (.cnv a p d, 4, p.toNat < 8 ∧ s1.pageOk x p.toNat = true ∧ kbit (x.rdG 1) 0 = false ∧ kbit (x.rdG 4) 0 = false,
          startPlain k 4, fun _ => cnvOp k p.toNat d),
        (.edit a p, 4, s1.patOk x p.toNat = true ∧ ok ∧ editCheck (x.rdG 4) = true, editStart k pat,
          fun _ => { drv := 3, plan := fixedPlan 2, unit := editUnit k pat })],
      Issued a q.1 q.2.1 st.sys s1 → q.2.2.1 →
      (g1AtOnce (x.rdG 1) = true → exec q.1 st = doneBy a q.2.1 .seq st s1) ∧
      ∀ (s2 s3 s4 s5 : Sys) (t : List Syl) (src : List (Nat × Octet)) (l0 l : Loop), g1AtOnce (x.rdG 1) = false →
        Ends (drain k) s1 () s2 →
        (let u := s2.modCore k (fun c => { c with strHold := none })
         s2.strHeld k = none ∧ Ends q.2.2.2.1 u (t, src) s3 ∧
            l0 = { g2 := ((s3.ctx k).rdG 2).toNat, g3 := ((s3.ctx k).rdG 3).toNat, src := src } ∨
          (∃ h, s2.strHeld k = some h ∧ t = h.tbl ∧ l0 = h.loop) ∧ s3 = u) →
        Ends (strLoop a (q.2.2.2.2 t) none (g1Rem ((s3.ctx k).rdG 1) + 3) l0) s3 (l, .done) s4 →
        Ends (loseOctets l.ind) s4 () s5 →
        exec q.1 st = doneBy a q.2.1 .seq st (if kbit ((s3.ctx k).rdG 1) 0 then
          s5.modCore k (fun c => { c with cyc := c.cyc + 1 }) else s5)) ∧
    ((¬ ok → ∀ i ∈ [Instr.mvs a lf, .mvf a lf, .trs a lf, .scn a lf], spec i n) ∧
      (fld (x.rdG 3) 0 27 ≠ 0 → spec (.scn a lf) n)) ∧
    (
      (8 ≤ p.toNat → Issued a (.cnv a p d) 4 st.sys s1 → exec (.cnv a p d) st = trapBy a { cls := 1, code := 1 } st s1) ∧
      (p.toNat < 8 → s1.pageOk x p.toNat = false → Issued a (.cnv a p d) 4 st.sys s1 → exec (.cnv a p d) st = trapBy a { cls := 8, code := 1 } st s1) ∧
      (p.toNat < 8 → s1.pageOk x p.toNat = true → kbit (x.rdG 1) 0 = true ∨ kbit (x.rdG 4) 0 = true → spec (.cnv a p d) 4) ∧
      (s1.patOk x p.toNat = false → Issued a (.edit a p) 4 st.sys s1 → exec (.edit a p) st = trapBy a { cls := 8, code := 1 } st s1) ∧
      (s1.patOk x p.toNat = true → ¬ ok ∨ editCheck (x.rdG 4) = false → spec (.edit a p) 4))

/-- R212-R218, R226, R230-R238.
Where the spec leaves a choice, the clauses follow the model's own (log entries 35 and 84). -/
def Obligations.StringUnits : Prop :=
  (∀ (k drv : Nat) (l : Loop) (s s1 : Sys) (y : Syl),
    let g := s.gr k 1
    (kbit g 0 = false → Ends (drvExit k drv l) s (fld g 1 35 == 0) s) ∧
    (kbit g 0 = true → kbit g 1 = true ∨ drv = 0 → fld g 12 35 ≠ 0 → Ends (drvExit k drv l) s false s) ∧
    (kbit g 0 = true → kbit g 1 = true ∨ drv = 0 → fld g 12 35 = 0 →
      Ends (drvExit k drv l) s true (s.putR k 1 (setBit g 3 true))) ∧
    (kbit g 0 = true → kbit g 1 = false → drv ≠ 0 →
      Ends (readSpan k (if drv = 2 then l.g2 else l.g3) 1) s [y] s1 →
      (mark y = true → Ends (drvExit k drv l) s true (s1.putR k 1 (setBit g 2 true))) ∧
      (mark y = false → fld g 12 35 ≠ 0 → Ends (drvExit k drv l) s false s1) ∧
      (mark y = false → fld g 12 35 = 0 → Ends (drvExit k drv l) s true (s1.putR k 1 (setBit g 3 true))))) ∧
  (∀ (k : Nat) (l l' : Loop) (op : StrOp) (s s1 s2 : Sys) (n : Nat), Ends (drvExit k op.drv l) s false s1 →
    (Ends (op.unit l) s1 none s2 → Ends (drvPass k op l) s none s2) ∧
    (Ends (op.unit l) s1 (some (n, l')) s2 → Ends (drvPass k op l) s (some { l' with units := l'.units + 1 })
      (((s2.putR k 1 (g1Count (s2.gr k 1) n)).putR k 2 (BitVec.ofNat 36 l'.g2)).putR k 3 (BitVec.ofNat 36 l'.g3))) ∧
    ∀ e, Meets (op.unit l) s1 e s2 → Ends (guarded k (drvPass k op l)) s (.error (.exc e false)) (Sys.undo k s s2)) ∧
  ∀ (k p : Nat) (d : Bool) (l : Loop) (s s1 s2 : Sys) (y : Syl) (tbl : List Syl) (out : List Octet) (n : Nat) (sp : Span),
    let on (l : Loop) : Option (Nat × Loop) := some (1, { l with g2 := l.g2 + 1, g3 := l.g3 + 1 })
    let tr : Octet := octet ((tbl[(octet y).toNat]?).getD 0)
    (Ends (rdSyl k l.g2) s y s1 →
      (Ends (wrSyl k l.g3 y) s1 () s2 → Ends ((mvsOp k).unit l) s (on l) s2) ∧
      (Ends (wrOct k l.g3 [octet y]) s1 sp s2 → Ends ((mvfOp k).unit l) s (on l) s2) ∧
      (Ends (wrOct k l.g3 [tr]) s1 sp s2 → Ends ((trsOp k tbl).unit l) s (on l) s2) ∧
      Ends ((scnOp k tbl).unit l) s
        (if tr.toNat &&& (l.g3 % 256) ≠ 0 then none else some (1, { l with g2 := l.g2 + 1 })) s1) ∧
    (Ends (cnvChar k p d l.g2 (fld (s.gr k 1) 1 35)) s none s1 → kbit (s.gr k 1) 0 = false →
      Ends ((cnvOp k p d).unit l) s none s1) ∧
    (Ends (cnvChar k p d l.g2 (fld (s.gr k 1) 1 35)) s (some (out, n)) s1 → kbit (s.gr k 1) 0 = false →
      (fld (s.gr k 4) 1 35 < out.length → Ends ((cnvOp k p d).unit l) s none s1) ∧
      (out.length ≤ fld (s.gr k 4) 1 35 → Ends (wrOct k l.g3 out) s1 sp s2 → ∃ ind,
        Ends ((cnvOp k p d).unit l) s (some (n, { l with g2 := l.g2 + n, g3 := l.g3 + out.length, ind := ind }))
          (s2.putR k 4 (s.gr k 4 - BitVec.ofNat 36 out.length))))

/-- R240-R246, R233-R235, R239. -/
def Obligations.EditUnitsAndCodePages : Prop :=
  (∀ (k x : Nat) (l : Loop) (s s1 : Sys) (y : Syl),
    (∀ o, l.src.find? (fun e => e.1 = x) = some (x, o) → Ends (editSrc k l x) s (o, l) s) ∧
    (l.src.find? (fun e => e.1 = x) = none → Ends (rdSyl k x) s y s1 →
      Ends (editSrc k l x) s (octet y, { l with src := [(x, octet y)] }) s1)) ∧
  (∀ (k : Nat) (t : PatTable) (l l1 : Loop) (s s1 s2 s3 : Sys) (y : Syl) (z : Octet) (sp : Span),
    Ends (rdSyl k l.g3) s y s1 →
    let g4 := s.gr k 4
    let o := (octet y).toNat
    let e := patEntry t o
    let flag (i : Nat) : Bool := (e.map (fun e => kbit e i)).getD false
    let acts := patActs e (fld g4 1 2)
    let fill := if flag 10 then o else fld g4 12 19
    let alt := (e.map (fun e => fld e 12 19)).getD 0
    let g4' (nxt : Nat) (nz lo : Bool) (left : Nat) : Word :=
      setFld (setFld (setBit (setBit (setFld g4 1 2 nxt) 4 nz) 5 lo) 6 11 left) 12 19 fill
    (flag 9 = false →
      let w := g4' acts.2.2.1 (!flag 11 && kbit g4 4) (kbit g4 5) (fld g4 6 11)
      match patOut t acts.1 o alt 0 fill false (kbit g4 3) with
      | none =>
        let ovl := indAt l l.g3 1 (l.g2 + (kbit g4 5).toNat) (if kbit g4 5 then fld g4 6 11 / 2 else (fld g4 6 11 + 1) / 2)
        (ovl = false → Ends (editUnit k t l) s (some (1, { l with g3 := l.g3 + 1 })) (s1.putR k 4 w)) ∧
        (ovl = true → Ends (spanXl k 2 l.g3 1) s1 sp s2 →
          ∃ ind, Ends (editUnit k t l) s (some (1, { l with g3 := l.g3 + 1, ind := ind })) (s2.putR k 4 w))
      | some v => Ends (wrOct k l.g3 [BitVec.ofNat 8 v]) s1 sp s2 →
          ∃ ind, Ends (editUnit k t l) s (some (1, { l with g3 := l.g3 + 1, ind := ind })) (s2.putR k 4 w)) ∧
    (flag 9 = true → fld g4 6 11 = 0 → Meets (editUnit k t l) s { cls := 8, code := 2 } s1) ∧
    (flag 9 = true → fld g4 6 11 ≠ 0 → Ends (editSrc k l l.g2) s1 (z, l1) s2 →
      let lo := kbit g4 5
      let dg := if lo then loNib z else hiNib z
      let nz := decide (dg ≠ 0)
      let g2 := if lo then l.g2 + 1 else l.g2
      (9 < dg → Meets (editUnit k t l) s { cls := 7, code := 1, faddr := l.g2 % 2 ^ 36 } s2) ∧
      (dg ≤ 9 →
        let w := g4' (if nz then acts.2.2.2 else acts.2.2.1) (!flag 11 && (kbit g4 4 || nz)) (!lo) (fld g4 6 11 - 1)
        match patOut t (if nz then acts.2.1 else acts.1) o alt dg fill true (kbit g4 3) with
        | none =>
          let left := fld g4 6 11 - 1
          let ovl := indAt l1 l.g3 1 (g2 + (!lo).toNat) (if lo then (left + 1) / 2 else left / 2)
          (ovl = false → Ends (editUnit k t l) s (some (1, { l1 with g2 := g2, g3 := l.g3 + 1 })) (s2.putR k 4 w)) ∧
          (ovl = true → Ends (spanXl k 2 l.g3 1) s2 sp s3 →
            ∃ ind, Ends (editUnit k t l) s (some (1, { l1 with g2 := g2, g3 := l.g3 + 1, ind := ind })) (s3.putR k 4 w))
        | some v => Ends (wrOct k l.g3 [BitVec.ofNat 8 v]) s2 sp s3 →
            ∃ ind, Ends (editUnit k t l) s (some (1, { l1 with g2 := g2, g3 := l.g3 + 1, ind := ind })) (s3.putR k 4 w)))) ∧
  (∀ (a : Issue) (st : State) (s1 : Sys) (rd ra rb : Reg),
    let k := a.core.val
    let p := (s1.gr k rb).toNat
    let t := s1.modCore k (fun c => { c with cyc := c.cyc + 4 })
    let ok := s1.pageOk (s1.ctx k) p
    (7 < p → ∀ i ∈ [Instr.cpq a rd rb, .cptou a rd ra rb, .cpfromu a rd ra rb],
      Issued a i 4 st.sys s1 → exec i st = trapBy a { cls := 8, code := 2 } st s1) ∧
    (p ≤ 7 → Issued a (.cpq a rd rb) 4 st.sys s1 → exec (.cpq a rd rb) st = doneBy a 4 .seq st (t.putR k rd
      (match s1.pageHdr p with
       | some h => setBit h 10 ok
       | none => 0))) ∧
    (p ≤ 7 → ok = false → ∀ i ∈ [Instr.cptou a rd ra rb, .cpfromu a rd ra rb],
      Issued a i 4 st.sys s1 → exec i st = trapBy a { cls := 8, code := 1 } st t) ∧
    (p ≤ 7 → ok = true →
      (Issued a (.cptou a rd ra rb) 4 st.sys s1 → exec (.cptou a rd ra rb) st = doneBy a 4 .seq st (t.putR k rd
        (match s1.pageTo p ((s1.gr k ra).toNat % 256) with
         | some cp => BitVec.ofNat 36 cp
         | none => 0o777777777777))) ∧
      Issued a (.cpfromu a rd ra rb) 4 st.sys s1 → exec (.cpfromu a rd ra rb) st = doneBy a 4 .seq st (t.putR k rd
        (match s1.pageFrom p (s1.gr k ra).toNat with
         | some o => BitVec.ofNat 36 o
         | none => 0o777777777777))))

/-- R354-R356.
Where the spec leaves a choice, the clauses follow the model's own (log entries 44 and 45). -/
def Obligations.SealSteps : Prop :=
  ∀ (a : Issue) (st : State) (s1 s2 s3 s6 s7 s8 : Sys) (rd ra rb : Reg) (sp dp : Span) (area ar data : List Octet)
    (ars : List Syl) (wk : Option SealSt) (ks : Tbl (List Octet)),
    let k := a.core.val
    let n := (s1.gr k rd).toNat
    let va := (s1.gr k rb).toNat
    let cust := (s1.ctx k).custody
    let done (i : Instr) (s : Sys) : Prop := Issued a i 4 st.sys s1 → exec i st = doneBy a 4 .seq st s
    let bad := trapBy a { cls := 1, code := 6 } st
    (cust = false → ∀ i ∈ [Instr.shinit a rd ra rb, .shstep a rd ra rb, .shfin a rd ra rb, .ginit a rd ra rb,
      .gaad a rd ra rb, .genc a rd ra rb, .gdec a rd ra rb, .gfin a rd ra rb],
      Issued a i 4 st.sys s1 → exec i st = trapBy a { cls := 1, code := 3 } st s1) ∧
    (cust = true → va % 64 ≠ 0 → ∀ i ∈ [Instr.shinit a rd ra rb, .shstep a rd ra rb, .shfin a rd ra rb, .ginit a rd ra rb,
      .gaad a rd ra rb, .genc a rd ra rb, .gdec a rd ra rb, .gfin a rd ra rb],
      Issued a i 4 st.sys s1 → exec i st = trapBy a { cls := 1, code := 4, acc := 3, faddr := va } st s1) ∧
    (cust = true → va % 64 = 0 →
      (∀ q ∈ [(Instr.shinit a rd ra rb, 0, 0), (.shstep a rd ra rb, 128, 128), (.shfin a rd ra rb, 0, 127),
          (.ginit a rd ra rb, 0, 0), (.gaad a rd ra rb, 1, 128), (.genc a rd ra rb, 1, 128), (.gdec a rd ra rb, 1, 128),
          (.gfin a rd ra rb, 0, 0)], n < q.2.1 ∨ q.2.2 < n → Issued a q.1 4 st.sys s1 → exec q.1 st = bad s1) ∧
      (∀ q ∈ [(Instr.gaad a rd ra rb, 1, 128, 1), (.genc a rd ra rb, 1, 128, 3), (.gdec a rd ra rb, 1, 128, 3),
          (.gfin a rd ra rb, 0, 0, 4)], q.2.1 ≤ n → n ≤ q.2.2.1 → Ends (spanRw k va 128) s1 sp s2 →
        Ends (sp.read k) s2 ars s3 → ar = ars.map octet →
        (match s3.sealRec ((sp.pieces.head?.map (fun p => p.1)).getD 0) true ar with
         | some r => q.2.2.2 < r.phase
         | none => True) → Issued a q.1 4 st.sys s1 → exec q.1 st = bad s3) ∧
      (n = 0 → Ends (spanRw k va 128) s1 sp s2 → Ends (sp.read k) s2 ars s3 → ar = ars.map octet →
        15 < keySlot ar ∨ tfind s3.tabs.keys (keySlot ar) = none → Issued a (.ginit a rd ra rb) 4 st.sys s1 → exec (.ginit a rd ra rb) st = bad s3) ∧
      (n = 0 → SealIn k ra rb false 0 0 s1 sp dp area data wk ks s6 →
        SealEnd k rd false sp area [] (some { gcm := false, hash := shaInit }) 20 s6 s8 → done (.shinit a rd ra rb) s8) ∧
      (n = 0 → SealIn k ra rb true 0 0 s1 sp dp area data wk ks s6 → ∀ key, keySlot area ≤ 15 →
        tfind ks (keySlot area) = some key →
        SealEnd k rd true sp area [] (some { gcm := true, key := key, iv := (area.drop 16).take 12 }) 30 s6 s8 →
        done (.ginit a rd ra rb) s8) ∧
      ∀ r, wk = some r → r.bad = false →
        (n = 128 → SealIn k ra rb false 128 2 s1 sp dp area data wk ks s6 →
          SealEnd k rd false sp area [] (some { r with hash := shaBlock r.hash data, dat := r.dat + 128 }) 40 s6 s8 →
          done (.shstep a rd ra rb) s8) ∧
        (n ≤ 127 → SealIn k ra rb false n 2 s1 sp dp area data wk ks s6 →
          SealEnd k rd false sp area (shaFinish r.hash data (r.dat + data.length)) none 80 s6 s8 → done (.shfin a rd ra rb) s8) ∧
        (1 ≤ n → n ≤ 128 → r.phase ≤ 1 → SealIn k ra rb true n 2 s1 sp dp area data wk ks s6 →
          SealEnd k rd true sp area [] (some { r with y := ghash (gcmH r.key) 9 r.y data, aad := r.aad + data.length,
                                                      phase := if data.length % 16 = 0 then 1 else 2 }) 24 s6 s8 →
          done (.gaad a rd ra rb) s8) ∧
        (1 ≤ n → n ≤ 128 → r.phase ≤ 3 → SealIn k ra rb true n 3 s1 sp dp area data wk ks s6 →
          let t := gcmCrypt r.key r.iv 9 (2 + r.dat / 16) data
          Ends (dp.writeOctets k t) s6 () s7 →
          (SealEnd k rd true sp area [] (some (gcmData r t)) 24 s7 s8 → done (.genc a rd ra rb) s8) ∧
          (SealEnd k rd true sp area [] (some (gcmData r data)) 24 s7 s8 → done (.gdec a rd ra rb) s8)) ∧
        (n = 0 → r.phase ≤ 4 → SealIn k ra rb true 0 0 s1 sp dp area data wk ks s6 →
          SealEnd k rd true sp area (gcmTag r.key r.iv r.y r.aad r.dat) (some { r with phase := 5 }) 30 s6 s8 →
          done (.gfin a rd ra rb) s8))

/-- R147-R150, R564, R565.
Where the spec leaves a choice, the clauses follow the model's own (log entry 48). -/
def Obligations.RemoteSlots : Prop :=
  (∀ (a : Issue) (st : State) (s1 : Sys) (sl : Fin 4) (rd ra rb : Reg) (cfn : BitVec 13),
    let k := a.core.val
    let x := s1.ctx k
    match (s1.img.remotes[sl.val]?).getD none with
    | none => Issued a (.cpRemote a sl rd ra rb cfn) 4 st.sys s1 → exec (.cpRemote a sl rd ra rb cfn) st = trapBy a { cls := 1, code := 5 } st s1
    | some r => (a.irqAt = 0 ∨ x.irqDue = none ∨ x.hold = true) →
      let tag := BitVec.ofNat 16 (512 * k + (s1.core k).remCnt)
      Issued a (.cpRemote a sl rd ra rb cfn) 4 st.sys s1 → exec (.cpRemote a sl rd ra rb cfn) st = leftBy st ((s1.queueOn r.link
        { link := linkNo r.link, vc := 0, typ := 1, dest := BitVec.ofNat 18 r.ident, src := s1.img.modid, sepoch := s1.port.epoch,
          depoch := (s1.epochOf r.ident).2, part := x.part, status := 0, tag := tag, seg := 0, last := true, poison := false,
          body := wordsToSyls [mkw 36 [(1, 3), (7, 0o74 + sl.val), (12, rd.val), (17, ra.val), (22, rb.val), (35, cfn.toNat)],
                               x.rdG ra, x.rdG rb] }).modCore k (fun c =>
          { c with remCnt := (c.remCnt + 1) % 512, remote := some { tag := tag, rd := rd, slot := sl } }))) ∧
  (∀ (h : PktHdr) (v : Option Word) (st : State) (q : RemReq) (s1 : Sys), st.sys.rxCheck h false = (s1, true) →
    let k := h.tag.toNat / 512
    let t := s1.modCore k (fun c => { c with remote := none })
    (∀ n, s1.fencedFor h.tag = some n → exec (.cpans h v) st =
      .next { st with sys := (s1.setSlot n { s1.slot n with owed := (s1.slot n).owed.erase h.tag }).discarded }) ∧
    (s1.fencedFor h.tag = none → (s1.core k).remote = some q →
    (q.tag = h.tag → (s1.running k).isSome = true →
      (h.status = 0 → ∀ w, v = some w → exec (.cpans h v) st = .next { st with sys := (t.putR k q.rd w).retire k 4 .seq }) ∧
      (h.status ≠ 0 → exec (.cpans h v) st = .next { st with sys := t.takeExc k { cls := 1, code := 5 } })) ∧
    (q.tag ≠ h.tag → exec (.cpans h v) st =
      .next { st with sys := { s1 with fab := { s1.fab with cpDrops := s1.fab.cpDrops + 1 } } }))) ∧
  ∀ (k : CoreId) (st : State) (q : RemReq), (st.sys.core k).remote = some q → (st.sys.running k).isSome = true →
    exec (.remoteTimeout k) st = .next { st with
      sys := (st.sys.modCore k (fun c => { c with remote := none })).takeExc k { cls := 1, code := 5 } }

/-- R333, R336, R369-R372, R376-R380.
Where the spec leaves a choice, the clauses follow the model's own (log entry 47). -/
def Obligations.CampionEvents : Prop :=
  (∀ (c : Cluster) (w : Word) (src : EvSrc) (st : State) (i : Nat), st.sys.findTask c w = some i →
    let s := st.sys
    let t := s.task c i
    let t' : Task := { t with events := t.events ||| evBit src }
    let out (x : Sys) : Prop := exec (.campionEvent c w src) st = .next { st with sys := x }
    (t.state = 3 → out ((s.setTask c i { t' with state := 1 }).becomeReady c i)) ∧
    (t.state = 5 → out ((s.setTask c i { t' with state := 4 }).becomeReady c i)) ∧
    (t.state = 1 ∨ t.state = 4 ∨ t.state = 6 ∨ t.state = 7 → out (s.setTask c i t')) ∧
    ∀ k b, t.state = 2 → t.resid = some (k, b) →
      (src = .ready → out (s.setTask c i t')) ∧ (src = .notice → out (s.raise k t.w 1 0)) ∧
      (src = .timer → out (s.raise k t.w 2 0)) ∧
      (src ≠ .ready → src ≠ .notice → src ≠ .timer → out (if t.evmask &&& evBit src ≠ 0 then
        (s.setTask c i t').raise k t.w 3 (evInfo src) else s.setTask c i t'))) ∧
  (∀ (c : Cluster) (w : Word) (src : EvSrc) (st : State), st.sys.findTask c w = none →
    exec (.campionEvent c w src) st = .next { st with
      sys := st.sys.modCamp c (fun x => { x with evDrop := min 262143 (x.evDrop + 1) }) }) ∧
  (∀ (c : Cluster) (i : Nat) (st : State), let t := st.sys.task c i
    exec (.timerExpiry c i) st = .next (if t.state = 0 ∨ t.tdl = 0 then st else { st with
      sys := (let s := st.sys.setTask c i { t with tdl := 0 }
              ({ s with timeUs := max s.timeUs t.tdl } : Sys).evTask c i .timer) })) ∧
  ∀ (k : CoreId) (st : State) (i : Nat), st.sys.runTask k = some i →
    let c := clusterOf k
    let s := st.sys.accountAll c
    (st.sys.task c i).state = 2 → (st.sys.core k).switchTo = none → (∀ x ∈ (st.sys.campion c).placing, x.2 ≠ k.val) →
    exec (.quantumEnd k) st = .next { st with
      sys := match s.choose c ((s.campion c).ready.filter (fun j => s.eligible c k j) ++
              (if s.eligible c k i then [i] else [])) with
        | some j => if j = i then s else s.dispatch c j k
        | none => s }

/-- R364-R368, R374, R381, R388-R390.
Where the spec leaves a choice, the clauses follow the model's own (log entry 14). -/
def Obligations.CampionCommands : Prop :=
  ∀ (k : CoreId) (c : Cluster) (w1 : Word) (arg : BitVec 8) (race : Bool) (st : State), (st.sys.running k).isSome = true →
    let s := st.sys
    let i := s.issuer k
    let ret (n : Nat) (w : Word) (t : Sys) : Out := .next { st with
      sys := t.modCamp c (fun x => { x with results := tset x.results i.x.taskid.toNat (n, w) }) }
    let f := s.findTask c w1
    let own (g : Task → Task) : Sys := s.modOwn i g
    (∀ q ∈ [(Instr.create k c w1), .ready k c w1, .cancel k c w1 race], i.sup = false → exec q st = ret 21 0 s) ∧
    (i.sup = true →
      (i.world = false → (s.part i.x.part).aff c = false → exec (.create k c w1) st = ret 21 0 s) ∧
      (i.world = true ∨ (s.part i.x.part).aff c = true →
        let s := s.blockRead i w1.toNat
        (s.blockWords i w1.toNat = none → exec (.create k c w1) st = ret 23 0 s) ∧
        ∀ w, s.blockWords i w1.toNat = some w → let w6 := (w[6]?).getD 0
          (i.world = false → kbit w6 4 = true → exec (.create k c w1) st = ret 21 0 s) ∧
          (i.world = true ∨ kbit w6 4 = false →
            (s.blockOk c i w = false → exec (.create k c w1) st = ret 23 0 s) ∧
            (s.blockOk c i w = true → kbit w6 4 = false → s.freeIndex c = none → exec (.create k c w1) st = ret 22 0 s) ∧
            ∀ n, s.blockOk c i w = true → (if kbit w6 4 then some 0 else s.freeIndex c) = some n →
              let nn := i.world && kbit w6 25
              let p := if i.world then fld w6 26 35 else i.x.part
              let id := taskId c n (s.nextGen c n)
              let cust := i.world && kbit w6 3
              let t : Task :=
                { state := 1, pri := fld w6 0 2, part := p, noPart := nn, w := cust, gen := s.nextGen c n,
                  init := some (blockCtx i w id (partIdOf nn p) (s.taskStack c n) (tblOf (s.template c)) cust) }
              let r := (s.setTask c n t).becomeReady c n
              (nn = false → (s.part p).taskq ≤ s.taskCount c p → exec (.create k c w1) st = ret 26 0 s) ∧
              (nn = true ∨ s.taskCount c p < (s.part p).taskq →
                exec (.create k c w1) st = ret 0 id (if kbit w6 4 then r.releaseNotices c else r)))) ∧
      (f = none → ∀ q ∈ [Instr.ready k c w1, .cancel k c w1 race], exec q st = ret 20 0 s) ∧
      ∀ n, f = some n → let t := s.task c n
        (mayName i t = false → ∀ q ∈ [Instr.ready k c w1, .cancel k c w1 race], exec q st = ret 21 0 s) ∧
        (mayName i t = true → exec (.ready k c w1) st = ret 0 0 (s.evTask c n .ready) ∧
          (i.world = false → t.w = true → exec (.cancel k c w1 race) st = ret 21 0 s) ∧
          (i.world = true ∨ t.w = false → exec (.cancel k c w1 race) st = ret 0 0
            ((if race then s.modCamp c (fun x => { x with rcDrop := min 262143 (x.rcDrop + 1) }) else s).cancelTask c n)) ∧
          (arg.toNat < 8 → exec (.setpri k c w1 arg) st =
            (let u := s.setTask c n { t with pri := arg.toNat }
             ret 0 0 (if (u.campion c).ready.contains n then
               (u.modCamp c (fun x => { x with ready := nerase (u.campion c).ready n ++ [n] })).pump c else u))))) ∧
    (8 ≤ arg.toNat → exec (.setpri k c w1 arg) st = ret 25 0 s) ∧
    exec (.timer k c w1) st = ret 0 0 (own (fun t => { t with tdl := if w1 = 0 then 0 else s.timeUs + w1.toNat })) ∧
    exec (.evint k c w1 arg) st =
      (if w1 ≠ 0 then ret 25 0 s else ret 0 0 (own (fun t => { t with evmask := arg.toNat }))) ∧
    exec (.addarea k c w1) st = if ¬ (i.world = true ∧ i.sup = true) then ret 21 0 s
      else if w1.toNat % 1024 ≠ 0 ∨ s.isCustody w1.toNat = false ∨ s.isCustody (w1.toNat + 1023) = false then ret 24 0 s
      else ret 0 0 ((s.pushArea c w1.toNat).lowCheck c)

/-- R311, R334, R337, R347, R382-R388.
Where the spec leaves a choice, the clauses follow the model's own (log entry 46). -/
def Obligations.BanksAndEntries : Prop :=
  (∀ (a : Issue) (st : State) (s1 s2 : Sys) (f : List Word) (ar : Nat),
    let k := a.core.val
    let x := s1.ctx k
    (x.custody = false ∨ x.sup = false → ∀ i ∈ [Instr.saveu a, .savel a], IssuedAs false a i 4 st.sys s1 → exec i st = trapBy a { cls := 1, code := 3 } st s1) ∧
    (x.custody = true → x.sup = true →
      (s1.areaFor k = none → IssuedAs false a (.saveu a) 4 st.sys s1 → exec (.saveu a) st = trapBy a { cls := 1, code := 2 } st s1) ∧
      (x.saved.find? (fun v => v.2 = x.sspC) = none → IssuedAs false a (.savel a) 4 st.sys s1 → exec (.savel a) st = trapBy a { cls := 1, code := 2 } st s1) ∧
      (s1.areaFor k = some ar → Ends (loadFrame k x.sspC.toNat) s1 f s2 →
        let y := s2.ctx k
        let s3 := ((s2.wr (ar + 8) (wordsToSyls (lowWords y f))).wr (ar + 156) (wordsToSyls (highWords y))).flushUnits k
        IssuedAs false a (.saveu a) 4 st.sys s1 → exec (.saveu a) st = doneBy a 4 .seq st ((s3.modCtx k (fun x =>
          { x with saved := (ar, x.sspC) :: x.saved.filter (fun v => v.2 != x.sspC) })).modCore k
          (fun c => { c with cyc := c.cyc + 48 }))) ∧
      (∀ o, x.saved.find? (fun v => v.2 = x.sspC) = some (ar, o) → Ends (drain k) s1 () s2 →
        IssuedAs false a (.savel a) 4 st.sys s1 → exec (.savel a) st = leftBy st (((s2.wr (ar + 96) (wordsToSyls ((List.range 15).map (fun i => x.rdG (i + 1))))).modCore k
          (fun c => { c with cyc := c.cyc + 12 })).spillTask k ar)))) ∧
  (∀ (c : Cluster) (st : State) (i k b : Nat), (st.sys.campion c).placing.find? (fun x => st.sys.mayFill c x.1 x.2) = some (i, k) → st.sys.freeBank k = some b →
    let t := st.sys.task c i
    let s := st.sys.modCamp c (fun y => { y with placing := y.placing.filter (fun x => x.1 != i) })
    (∀ x, t.init = some x → exec (.restore c) st = .next { st with sys := s.fillBank c i k b x }) ∧
    ∀ a, t.init = none → t.save = some a →
      let s := s.fetchFor 6 a 1024
      exec (.restore c) st = .next { st with
      sys := if s.poisonedSpan a 1024 then (s.taskFault c i 701).pump c
        else s.fillBank c i k b (restoreCtx ((List.range 256).map (fun n => s.rdW (a + 4 * n))) (partIdOf t.noPart t.part)) }) ∧
  (∀ (a : Issue) (st : State), a.hw = .none →
    let k := a.core.val
    let s := st.sys.closeShadow k
    (∀ t, (s.core k).switchTo = some t → (s.core k).stopped = false → (s.core k).slot.isSome = true → s.mayLeave k = true →
      let u := (s.switchOut k).modCore k (fun c => { c with switchTo := none, remote := none })
      exec (.bankSwitch a) st = .next { st with sys := match t with
        | none => u.pump (clusterOf k)
        | some b => match tfind (u.core k).banks b with
          | none => u.pump (clusterOf k)
          | some x =>
            let i := taskIdx x.taskid
            if (u.task (clusterOf k) i).state = 1 ∧ u.mayRun (clusterOf k) i = false then
              (u.modCamp (clusterOf k) (fun cp => { cp with ready := i :: cp.ready })).pump (clusterOf k)
            else ((u.switchIn k b).begin k).pump (clusterOf k) }) ∧
    ((s.core k).switchTo = none ∨ s.mayLeave k = false → exec (.bankSwitch a) st = .next { st with sys := s }) ∧
    ∀ b x, s.running k = some (b, x) → (s.core k).waitc = none → (s.core k).entry = none →
      (x.irqDue = none ∨ x.hold = true → exec (.interruptEntry a) st = .next { st with sys := s }) ∧
      ∀ w c i s2, x.irqDue = some (w, c, i) → x.hold = false →
        let u := (s.modCtx k (fun y => if w then { y with irqC := terase y.irqC c } else { y with irqO := terase y.irqO c })).modCore k
          (fun y => { y with strHold := none, useq := none, remote := none })
        Ends (enterM k { cls := 11, code := c, info := i, asyn := true } w x.pc) u () s2 →
        exec (.interruptEntry a) st = .next { st with sys := s2 }) ∧
  ∀ (k : CoreId) (st : State),
    (∀ sh, (st.sys.ctx k).shadow = some sh → sh.count = 0 → (st.sys.running k).isSome = true →
      exec (.shadowClose k) st = .next { st with
        sys := st.sys.modCtx k (fun x => { x with status := setFld x.status 2 12 (fld sh.pend 2 12), shadow := none }) }) ∧
    exec (.shieldEnd k) st = .next { st with
      sys := st.sys.modCtx k (fun x => { x with status := setBit x.status 19 false, shield := 0 }) }

/-- R299, R407, R417, R433, R644.
Where the spec leaves a choice, the clauses follow the model's own (log entries 5 and 77). -/
def Obligations.StoreCommitWrites : Prop :=
  ∀ (k : CoreId) (st : State) (e : StoreEnt) (es : List StoreEnt), (st.sys.core k).sq = e :: es →
    let s := st.sys
    (e.retry = true → exec (.lockedLineRetry k) st = exec (.storeCommit k) st) ∧
    (e.retry = false → exec (.lockedLineRetry k) st = .next st) ∧
    (e.pa < memSize → s.voided e = false →
      let waits (t : Sys) : Out := .next { st with sys := (t.modCore k (fun c => { c with sq := { e with retry := true } :: es })).storesMoved k }
      (s.spanLocked e.pa e.data.length = true ∨ (∃ l, e.leaf = some l ∧ s.lineLocked l.1 = true) → exec (.storeCommit k) st = waits s) ∧
      ∀ ln, s.spanLocked e.pa e.data.length = false → (∀ l, e.leaf = some l → s.lineLocked l.1 = false) →
        s.blockedLine k true e.pa e.data.length = some ln → exec (.storeCommit k) st = waits (s.coreWaits k true ln)) ∧
    ((s.core k).entry = none → e.pa < memSize → s.voided e = false → s.spanLocked e.pa e.data.length = false →
      s.blockedLine k true e.pa e.data.length = none → Memory.wf s.mem = true → s.flips = [] → e.data.length ≤ 64 →
      (∀ p ∈ s.parts, p.2.held = []) → (∀ q, (s.bu q).owed = []) →
      (∀ l, e.leaf = some l → l.1 < memSize ∧ s.rdW l.1 = dw0 l.2 ∧ s.lineLocked l.1 = false) → ∃ t, exec (.storeCommit k) st = .next t ∧
        (∀ (i : Nat) (v : Syl), e.data[i]? = some v → s.inTable (e.pa + i) = false → mget t.sys.mem (e.pa + i) = v) ∧
        (∀ x, (x < e.pa ∨ e.pa + e.data.length ≤ x ∨ s.inTable x = true) → x ≠ s.keyAddr e.pa →
          (∀ l, e.leaf = some l → x < l.1 ∨ l.1 + 4 ≤ x) → mget t.sys.mem x = mget s.mem x) ∧
        ((s.core k).waitc = none → (t.sys.core k).sq = es ∧ t.sys.ctx k = s.ctx k))

/-- R425-R432, R440-R445, R398.
Where the spec leaves a choice, the clauses follow the model's own (log entries 6, 23, 24 and 77). -/
def Obligations.DirectoryCommands : Prop :=
  (∀ (g : Agent) (line : Nat) (e : Ecc) (st : State) (fl : Bool), memSize ≤ 64 * line →
    ∀ i ∈ [Instr.readRequest g line e, .ownershipRequest g line e, .forward line fl, .writeback g line],
      exec i st = .fault (.noSuchAddress (64 * line))) ∧
  (∀ (g : Agent) (a n : Nat) (e : Ecc) (d : List Syl) (st : State),
    (memSize < a + n → exec (.uncachedRead g a n e) st = .fault (.noSuchAddress a)) ∧
    (memSize < a + d.length → ∀ i ∈ [Instr.uncachedWrite g a d, .partialWrite g a d], exec i st = .fault (.noSuchAddress a))) ∧
  (∀ (c : Cluster) (line : Nat) (st : State) (own : Bool), let s := st.sys
    let d := s.dir line
    let req := if own then Instr.ownershipRequest (.cluster c) line [] else .readRequest (.cluster c) line []
    let out (t : Sys) : Prop := exec req st = .next { st with sys := t }
    64 * line < memSize → s.lineUp line = true → s.tracker = [] → s.dirs.length < 16 →
    (s.lineLocked (64 * line) = true → d.pend.map (fun p => p.1) ≠ some (.cluster c) →
      out { s with tracker := [{ agent := .cluster c, line := line, req := if own then .own else .share }] }) ∧
    (∀ g o, g ≠ Agent.cluster c → d.pend = some (g, o) →
      out { s with tracker := [{ agent := .cluster c, line := line, req := if own then .own else .share }] }) ∧
    (s.lineLocked (64 * line) = false → d.pend = none →
      (∀ o, d.owner = some o → o ≠ .cluster c → out (s.setDir line { d with pend := some (.cluster c, own) })) ∧
      (d.owner = none → s.inL3 c line = false → (s.mc (stackOf (64 * line))).fail = false → s.flips = [] →
        s.poison.contains (2 * line) = false → s.poison.contains (2 * line + 1) = false →
        (own = false → let u := s.fillL3 c { line := line, poison := (false, false) }
          out (u.setDir line { d with sharers := ninsert d.sharers c })) ∧
        (own = true → let u := s.dropOthers (some c.val) line
          out ((if u.inL3 c line then u else u.fillL3 c { line := line, poison := (false, false) }).setDir line
            { u.dir line with owner := some (.cluster c), sharers := [], pend := none }))))) ∧
  (∀ (c o : Cluster) (line : Nat) (own : Bool) (st : State), let s := st.sys
    let d := s.dir line
    let u := s.dropCluster o line
    let w := u.dir line
    let gone : Sys := u.setDir line { w with owner := none, pend := none, inFlight := false, late := if w.inFlight then w.late else w.late + 1 }
    64 * line < memSize → d.owner = some (.cluster o) → s.tracker = [] →
    (d.pend = none → exec (.writeback (.cluster o) line) st = .next { st with sys := u.setDir line { w with owner := none, inFlight := false } }) ∧
    (d.pend = some (.cluster c, own) →
      (gone.lineFree line = true → (gone.dir line).owner = none → s.lineLocked (64 * line) = false →
        exec (.writeback (.cluster o) line) st = .next { st with sys := gone.takeLine c line own }) ∧
      (d.inFlight = false → exec (.forward line false) st = .next { st with
        sys := ((s.setDir line { d with pend := none, inFlight := false }).takeLine c line own).serveTrackers }) ∧
      exec (.forward line true) st = .next { st with
        sys := s.setDir line (if d.late ≠ 0 then { d with late := d.late - 1 } else { d with inFlight := true }) })) ∧
  ∀ (a n : Nat) (l : Link) (st : State), let s := st.sys
    a + n ≤ memSize → a < memSize → s.tracker = [] → s.dirs.length < 16 → 0 < n → (a + n - 1) / 32 = a / 32 → s.lineUp (a / 64) = true →
    let waits (i : Instr) (r : LineReq) : Prop := exec i st = .next { st with
      sys := { s with tracker := [{ agent := .remote l, line := a / 64, req := r }] } }
    (∀ g o, g ≠ Agent.remote l → (s.dir (a / 64)).pend = some (g, o) → waits (.uncachedRead (.remote l) a n []) (.read a n)) ∧
    ((s.dir (a / 64)).pend = none →
      ((s.dir (a / 64)).owner.isSome = true ∨ s.lineLocked a = true → exec (.uncachedRead (.remote l) a n []) st = .next st) ∧
      ((s.dir (a / 64)).owner = none → s.lineLocked a = false →
        exec (.uncachedRead (.remote l) a n []) st = .next { st with sys := s.readCheck 4 (a / 32) })) ∧
    ∀ d : List Syl, d.length = n → (∀ p ∈ s.parts, p.2.held = []) → (∀ q, (s.bu q).owed = []) →
      ∀ i ∈ [Instr.uncachedWrite (.remote l) a d, .partialWrite (.remote l) a d],
        ((∃ g o, g ≠ Agent.remote l ∧ (s.dir (a / 64)).pend = some (g, o)) ∨
          (s.dir (a / 64)).pend = none ∧ s.lineLocked a = true → waits i (.write a d)) ∧
        ((s.dir (a / 64)).pend = none → s.lineLocked a = false →
          let u := s.takeBack (a / 64)
          (u.mc (stackOf a)).fail = false →
          (n = 32 → exec i st = .next { st with sys := ((u.put a d).unflip (a / 32)).setPoison (a / 32) false }) ∧
          (n < 32 → u.poison.contains (a / 32) = true → exec i st = .next { st with sys := u.capture 3 4 (a / 32) }) ∧
          (n < 32 → u.poison.contains (a / 32) = false → tget 0 u.flips (a / 32) = 0 →
            exec i st = .next { st with sys := (u.put a d).unflip (a / 32) }))

/-- R410-R412, R41-R49, R351, R352.
Where the spec leaves a choice, the clauses follow the model's own (log entries 6, 16 and 17). -/
def Obligations.InvalidationsAndSlotHealth : Prop :=
  ((∀ (k : CoreId) (st : State), ((st.sys.core k).invq = [] → exec (.invalidation k) st = .next st) ∧
    ∀ v vs, (st.sys.core k).invq = v :: vs → (st.sys.core k).sq = [] → (st.sys.core k).waitc = none → (st.sys.core k).entry = none →
      exec (.invalidation k) st = .next { st with
        sys := (st.sys.modCore k (fun c => { c.forget v.scope.hits with invq := vs })).modCore v.src
          (fun c => { c with acks := c.acks ++ [{ core := k.val, slot := v.slot, task := v.task }] }) }) ∧
  (∀ (src k : CoreId) (st : State),
    ((∀ x ∈ (st.sys.core k).acks, x.core ≠ src.val) → exec (.invalidationAck src k) st = .next st) ∧
    ∀ v, (st.sys.core k).acks.find? (fun x => x.core = src.val) = some v →
      let s := st.sys.modCore k (fun c => { c with acks := c.acks.erase v })
      exec (.invalidationAck src k) st = .next { st with
        sys := (if v.slot = (st.sys.core k).slot then s else s.discarded).creditAck src k v.task }) ∧
  (∀ (src k : CoreId) (task : Word) (s : Sys), (∀ j ∈ coresOf (clusterOf k), (s.core j).waitc ≠ some .ivsync) →
    ∀ j ∈ coresOf (clusterOf k), ∀ b x, tfind (s.core j).banks b = some x →
      tfind ((s.creditAck src k task).core j).banks b =
        some (if x.taskid = task then { x with ivOut := x.ivOut.erase src } else x)) ∧
  (∀ (src k : CoreId) (task : Word) (s : Sys) (i : Nat), s.findTask (clusterOf k) task = some i →
    (∀ j ∈ coresOf (clusterOf k), (s.core j).waitc ≠ some .ivsync) →
    ((s.creditAck src k task).task (clusterOf k) i).ivOut = (s.task (clusterOf k) i).ivOut.erase src) ∧
  ∀ (k : Nat) (s : Sys), (s.core k).waitc = some .ivsync → (s.running k).isSome = true →
    ((s.ctx k).ivOut = [] → (s.core k).ivSt = 0 →
      s.ivsyncDone k = (s.modCore k (fun c => { c with waitc := none })).retire k 4 .seq) ∧
    ((s.ctx k).ivOut ≠ [] ∨ (s.core k).ivSt ≠ 0 → s.ivsyncDone k = s)) ∧
  ((∀ (c : Cluster) (sl : SlotId) (pass : Bool) (st : State), let s := st.sys
    let n := 9 * c.val + sl.val
    (∀ k, (s.slot n).st = .active k → exec (.heartbeat c sl) st = .next { st with sys := s.setSlot n { s.slot n with beat := true } }) ∧
    ((s.slot n).st ≠ .testing → exec (.selfTestEnd c sl pass) st = .next st) ∧
    ((s.slot n).st = .testing → ∃ t, exec (.selfTestEnd c sl pass) st = .next t ∧
      (pass = false → (t.sys.slot n).st = .retired ∧ n ∈ t.sys.tansy.retired) ∧
      (pass = true → (∀ k ∈ coresOf c, (s.core k).slot.isSome = true) → (t.sys.slot n).st = .spare) ∧
      (pass = true → ∀ k, (coresOf c).find? (fun k => (s.core k).slot.isNone) = some k →
        t.sys = (s.release k n).pump c ∧ ((s.release k n).core k).slot = some n ∧ ((s.release k n).slot n).st = .active k))) ∧
  (∀ st : State, exec .heartbeatTick st = .next { st with sys := (List.range 96).foldl (fun s k => s.tickCore k) st.sys }) ∧
  ∀ (s : Sys) (k n : Nat), (s.core k).slot = some n → (s.slot n).st = .active k →
    ((s.slot n).beat = true → s.tickCore k = s.setSlot n { s.slot n with beat := false, missed := 0 }) ∧
    ((s.slot n).beat = false → (s.slot n).missed < 2 → s.tickCore k = s.setSlot n { s.slot n with missed := (s.slot n).missed + 1 }) ∧
    ((s.slot n).beat = false → 2 ≤ (s.slot n).missed → s.tickCore k = (s.setSlot n { s.slot n with missed := 3 }).substitute k 721
      { kind := 1, core := k, slot := 0, cls := 0, code := 0, part := if (s.ctx k).noPart then 0 else (s.ctx k).part,
        pc := (s.core k).lastPc }))

/-- R249-R259, R287.
Where the spec leaves a choice, the clauses follow the model's own (log entries 37, 39, 90 and 91). -/
def Obligations.PostingSubmission : Prop :=
  (∀ (a : Issue) (st : State) (s1 s2 s3 : Sys) (ra : Reg) (d : Desc),
    ∀ q ∈ [(Instr.post a ra, false), (.prep a ra, true)],
      let k := a.core.val
      let g := (s1.gr k ra).toNat
      (g % 8 ≠ 0 → Issued a q.1 4 st.sys s1 → exec q.1 st = trapBy a { cls := 1, code := 4, acc := 2, faddr := g } st s1) ∧
      (g % 8 = 0 → Ends (readDesc k g) s1 d s2 →
        (s2.submit (quadOf k) (s2.ctx k) q.2 d = some s3 → Issued a q.1 4 st.sys s1 → exec q.1 st = doneBy a 4 .seq st s3) ∧
        (a.irqAt = 0 ∨ (s2.ctx k).irqDue = none ∨ (s2.ctx k).hold = true → s2.submit (quadOf k) (s2.ctx k) q.2 d = none →
          Issued a q.1 4 st.sys s1 → exec q.1 st = leftBy st s2))) ∧
  (∀ (q : Nat) (x : Ctx) (prep : Bool) (d : Desc) (s : Sys) (n : Nat),
    let sub := submitter x
    let pok := s.partOk x.custody x.part d.part
    let ring := if pok then some d.part else sub
    let legs := d.legList
    let k := if prep then 2 else 1
    let mods := dedup ((legs.filter (fun l => l.rmt)).map (fun l => l.ident))
    let p : Posting :=
      { slot := n, op := if prep then 1 else 0, sub := sub, part := ring.getD 0, ring := ring, pid := d.pid, dur := d.dur,
        fmt := d.fmt, tmo := if d.tmo = 0 then 10000 else d.tmo, curs := d.curs, legs := legs,
        age := { stamp := s.port.count, ident := s.modid, quad := q, slot := n },
        task := (taskClus x.taskid, x.taskid), phase := .lockWait, others := mods.map (fun m => (m, false, false)),
        ord := (s.bu q).accepts, resv := k }
    let t := (match ring with
      | some r => s.setPart r { s.part r with resP := (s.part r).resP + k }
      | none => s).setBu q { s.bu q with accepts := (s.bu q).accepts + 1, posts := tset (s.bu q).posts n p }
    (s.freeSlot q = none → s.submit q x prep d = none) ∧
    (s.freeSlot q = some n → s.roomFor q legs.length (prep || !mods.isEmpty) ring = false ∨ s.ringRoom ring k = false →
      s.submit q x prep d = none) ∧
    (s.freeSlot q = some n → s.roomFor q legs.length (prep || !mods.isEmpty) ring = true → s.ringRoom ring k = true →
      (d.hdrBad = true ∨ pok = false → s.submit q x prep d = some (t.fail q n 210 31 s.modid)) ∧
      (d.hdrBad = false → pok = true →
        (d.nleg < 2 ∨ 16 < d.nleg → s.submit q x prep d = some (t.fail q n 214 31 s.modid)) ∧
        (2 ≤ d.nleg → d.nleg ≤ 16 →
          (∀ l, (legs.find? (fun l => legBad l d.ncur || !t.groupOk d.part l.lpart)) = some l →
            s.submit q x prep d = some (t.fail q n 210 l.idx s.modid)) ∧
          ((legs.find? (fun l => legBad l d.ncur || !t.groupOk d.part l.lpart)) = none →
            (tfind s.tabs.formats d.fmt = none → s.submit q x prep d = some (t.fail q n 214 31 s.modid)) ∧
            ((tfind s.tabs.formats d.fmt).isSome = true →
              ((prep = true ∨ mods ≠ []) → t.dupPrep q n sub d.pid = true →
                s.submit q x prep d = some (t.fail q n 224 31 s.modid)) ∧
              ((prep = false ∧ mods = []) ∨ t.dupPrep q n sub d.pid = false →
                s.submit q x prep d = some (t.process q n)))))))) ∧
  ∀ (q n status leg modr : Nat) (s : Sys) (p : Posting) (r : Nat), s.posting q n = some p → p.coord = none → p.ring = some r →
    p.quiet = false → p.told = [] →
    let t := s.dropPosting q n
    let rec' := sylsD p.pid ++ sylsD 0 ++ wordsToSyls [mkw 36 [(9, status), (14, leg), (15, 0), (19, p.op)], mkw 36 [(17, modr)], 0, 0]
    s.fail q n status leg modr = (let u := t.putRecord q r rec' p.task.2
      u.setPart r { u.part r with resP := (u.part r).resP - (p.resv - 1) })

/-- R269, R275, R287, R289, R535-R538, R542, R645.
Where the spec leaves a choice, the clauses follow the model's own (log entries 43, 91 and 93). -/
def Obligations.PostingAndLockInstructions : Prop :=
  ∀ (a : Issue) (st : State) (s1 : Sys) (rd ra : Reg),
    let k := a.core.val
    let q := quadOf k
    let x := s1.ctx k
    let sub := submitter x
    let pid := s1.gp k ra
    let ill := trapBy a { cls := 1, code := 1 } st s1
    let done (s : Sys) : Out := doneBy a 4 .seq st s
    (ra.val % 2 = 1 → ∀ i ∈ [Instr.commit a ra, .abort a ra, .pstat a rd ra], Issued a i 4 st.sys s1 → exec i st = ill) ∧
    (rd.val % 2 = 1 → ∀ i ∈ [Instr.getseq a rd, .getjh a rd], Issued a i 4 st.sys s1 → exec i st = ill) ∧
    (ra.val % 2 = 0 →
      (a.irqAt = 0 ∨ x.irqDue = none ∨ x.hold = true → s1.ringRoom sub 1 = false → (Issued a (.commit a ra) 4 st.sys s1 → exec (.commit a ra) st = leftBy st s1) ∧
        (Issued a (.abort a ra) 4 st.sys s1 → exec (.abort a ra) st = leftBy st s1)) ∧
      (s1.ringRoom sub 1 = true → ∀ n p, s1.findPrep q sub pid = some (n, p) →
        (Issued a (.commit a ra) 4 st.sys s1 → exec (.commit a ra) st = done ((s1.setPosting q n { p with op := 2, phase := .seqWait }).askNumber q n)) ∧
        (Issued a (.abort a ra) 4 st.sys s1 → exec (.abort a ra) st = done (((s1.setPosting q n { p with op := 3 }).fail q n 202 31 s1.modid).balance))) ∧
      (s1.ringRoom sub 1 = true → s1.findPrep q sub pid = none → ∀ o ∈ [(Instr.commit a ra, 2), (.abort a ra, 3)],
        Issued a o.1 4 st.sys s1 → exec o.1 st = done (match sub with
          | none => s1
          | some r => (s1.setPart r { s1.part r with resP := (s1.part r).resP + 1 }).putRecord q r (sylsD pid ++ sylsD 0 ++
              wordsToSyls [mkw 36 [(9, 223), (14, 31), (19, o.2)], mkw 36 [(17, s1.modid)], 0, 0]) x.taskid)) ∧
      ((∀ p ∈ (s1.bu q).posts, ¬ (p.2.pid = pid ∧ p.2.sub = sub ∧ p.2.coord = none)) →
        Issued a (.pstat a rd ra) 4 st.sys s1 → exec (.pstat a rd ra) st = done (s1.putR k rd 0)) ∧
      ∀ n p, (s1.bu q).posts = [(n, p)] → p.pid = pid → p.sub = sub → p.coord = none →
        Issued a (.pstat a rd ra) 4 st.sys s1 → exec (.pstat a rd ra) st = done (s1.putR k rd (if p.phase.past then 3
          else if p.phase = .prepared ∨ p.phase = .partReady ∨ (p.op = 2 ∧ p.phase = .seqWait) then 2 else 1))) ∧
    (rd.val % 2 = 0 →
      (Issued a (.getseq a rd) 4 st.sys s1 → exec (.getseq a rd) st = done (s1.putP k rd (BitVec.ofNat 72 s1.alloc.highest))) ∧
      (Issued a (.getjh a rd) 4 st.sys s1 → exec (.getjh a rd) st = done (s1.putP k rd (if x.noPart then 0 else BitVec.ofNat 72 (s1.horizon x.part)))) ∧
      s1.horizon x.part ≤ s1.alloc.highest ∧ ∀ b ∈ s1.bus,
        (∀ y ∈ b.2.posts, ∀ m, y.2.part = x.part → y.2.num = some m → s1.horizon x.part ≤ m - 1) ∧
        ∀ y ∈ b.2.recs, y.part = x.part → y.seqn ≠ 0 → s1.horizon x.part < y.seqn) ∧
    (let g := s1.gr k ra
     let lock := fld g 24 35
     let ok := fld g 0 23 = 0 ∧ s1.inWindow x lock = true
     let me : Option Nat := if x.custody || x.noPart then none else some x.part
     let l := s1.lockReqs lock
     let ret (n : Nat) (s : Sys) : Out := done (s.putR k rd (BitVec.ofNat 36 n))
     (¬ ok → (Issued a (.slacq a rd ra) 4 st.sys s1 → exec (.slacq a rd ra) st = ret 521 s1) ∧
       (Issued a (.slrel a rd ra) 4 st.sys s1 → exec (.slrel a rd ra) st = ret 521 s1)) ∧
     (ok → s1.port.role = 3 → Issued a (.slacq a rd ra) 4 st.sys s1 → exec (.slacq a rd ra) st = ret 501 s1) ∧
     (ok → s1.port.role ≠ 3 → s1.ownLive = false → Issued a (.slacq a rd ra) 4 st.sys s1 → exec (.slacq a rd ra) st = ret 510 s1) ∧
     (ok → s1.ownLive = false → Issued a (.slrel a rd ra) 4 st.sys s1 → exec (.slrel a rd ra) st = ret 510 s1) ∧
     (ok → s1.port.role ≠ 3 → s1.ownLive = true →
       (findReq l me = none → Issued a (.slacq a rd ra) 4 st.sys s1 → exec (.slacq a rd ra) st = ret 520 ((s1.setLockReqs lock
         (l ++ [{ part := me, task := (taskClus x.taskid, x.taskid), st := .queued }])).lockAdvance lock)) ∧
       ∀ r, findReq l me = some r →
         (r.st = .held → Issued a (.slacq a rd ra) 4 st.sys s1 → exec (.slacq a rd ra) st = ret 523 s1) ∧
         (r.st = .queued ∨ r.st = .sent → Issued a (.slacq a rd ra) 4 st.sys s1 → exec (.slacq a rd ra) st = ret 520 s1) ∧
         ∀ ab sq, r.st = .granted ab sq → Issued a (.slacq a rd ra) 4 st.sys s1 → exec (.slacq a rd ra) st = ret (if ab then 217 else 0)
           (s1.setLockReqs lock (l.map (fun o => if o = r then { o with st := .held } else o)))) ∧
     (ok → s1.ownLive = true →
       (l = [] → Issued a (.slrel a rd ra) 4 st.sys s1 → exec (.slrel a rd ra) st = ret 522 s1) ∧
       ∀ r rs, l = r :: rs →
         (r.part ≠ me ∨ r.st = .queued ∨ r.st = .sent ∨ r.st = .leaving → Issued a (.slrel a rd ra) 4 st.sys s1 → exec (.slrel a rd ra) st = ret 522 s1) ∧
         (r.part = me → r.st = .held ∨ (∃ sq, r.st = .granted false sq) → Issued a (.slrel a rd ra) 4 st.sys s1 → exec (.slrel a rd ra) st =
           ret 0 (((s1.setLockReqs lock rs).launch (.lkrel lock s1.alloc.highest)).lockAdvance lock)) ∧
         (∀ sq, r.part = me → r.st = .granted true sq → Issued a (.slrel a rd ra) 4 st.sys s1 → exec (.slrel a rd ra) st =
           ret 0 (((s1.setLockReqs lock rs).launch (.lkabn lock me)).lockAdvance lock))))

/-- R259 steps 9 and 10, R260, R266, R269-R273.
Where the spec leaves a choice, the clauses follow the model's own (log entries 38 and 93). -/
def Obligations.CommitPointEffects : Prop :=
  (∀ (q : Quad) (n : Nat) (st : State), st.sys.posting q n = none →
    exec (.commitPoint q n) st = .next { st with sys := st.sys.balance }) ∧
  (∀ (q : Quad) (n : Nat) (st : State) (p : Posting), st.sys.posting q n = some p →
    let s := st.sys
    let out (t : Sys) : Prop := exec (.commitPoint q n) st = .next { st with sys := t.balance }
    (p.phase ≠ .seqWait → out s) ∧
    (p.phase = .seqWait → p.wounded = true → p.coord = none → out (s.fail q n 215 31 s.modid)) ∧
    (p.phase = .seqWait → p.wounded = false ∨ p.coord.isSome = true →
      (p.num = none → s.takeNumber = none → out s.noNumber) ∧
      ∀ sq u, (p.num = some sq ∧ u = s) ∨ (p.num = none ∧ ∃ s', s.takeNumber = some (sq, s') ∧
          u = s'.setPosting q n { p with num := some sq }) →
        ((∃ b ∈ u.bus, ∃ y ∈ b.2.posts, ∃ m, y.2.num = some m ∧ m < sq) → out u) ∧
        ((∀ b ∈ u.bus, ∀ y ∈ b.2.posts, ∀ m, y.2.num = some m → sq ≤ m) →
        let t := u.applyImage (tget 0 u.tabs.formats p.fmt) sq p
        let kept (ph : Phase) : Posting :=
          { p with phase := ph, seqn := sq, num := none, locks := [], image := [], jres := 0, recs := nrecs p.local.length }
        (p.coord.isSome = true → out (((t.dropPosting q n).append q p 3 sq (BitVec.ofNat 72 p.seqn) none).answer p 0 31)) ∧
        (p.coord = none → p.others ≠ [] → out (((t.setPosting q n (kept .kind2Wait)).unlock p.locks).append q p 2 sq 0 (some n))) ∧
        (p.coord = none → p.others = [] → p.dur = true → out (((t.setPosting q n (kept .durWait)).unlock p.locks).append q p 0 sq 0 (some n))) ∧
        (p.coord = none → p.others = [] → p.dur = false →
          (let v := (t.dropPosting q n).append q p 0 sq 0 none
           out ((v.report q p 0 31 sq v.modid false).unreserve { p with resv := p.resv - 1 })))))) ∧
  ∀ (f : DWord) (n : Nat) (p : Posting) (s : Sys) (x : Nat), s.flips = [] →
    (∀ y ∈ p.image, y.1 ≠ x) → (∀ ln ∈ p.locks, s.keyAddr (ln * 64) ≠ x) →
    (fHL f = true → ∀ ln ∈ p.locks, x < ln * 64 + 8 * fLOFF f ∨ ln * 64 + 8 * fLOFF f + 8 ≤ x) →
    mget (s.applyImage f n p).mem x = mget s.mem x

/-- R259, R264-R267, R276, R282, R284.
Where the spec leaves a choice, the clauses follow the model's own (log entries 39 and 94). -/
def Obligations.WaitingPostings : Prop :=
  ∀ (q : Quad) (n line : Nat) (st : State),
    let s := st.sys
    let out (i : Instr) (t : Sys) : Prop := exec i st = .next { st with sys := t.balance }
    ((∀ q : Quad, (s.bu q).preps = []) → (∀ x ∈ s.parts, x.2.held = []) → (∀ q : Quad, (s.bu q).owed = []) →
      (∀ x ∈ s.img.pairs, (s.pairSt x.part).late = none) → s.balance = s) ∧
    ((s.holder line).isSome = true ∨ s.waiters q line = [] → out (.lockRelease q line) s) ∧
    (∀ m p l, s.holder line = none → s.waiters q line = (m, p) :: l →
      out (.lockRelease q line) (s.takeLocks q m (p.want.length + 1))) ∧
    out (.journalSpace q) ((s.bu q).posts.foldl (fun s p => match s.posting q p.1 with
      | none => s
      | some t => if t.phase = .ringWait then s.step7 q p.1
        else if t.phase = .abortWait then s.partEnd q p.1 t else s) s) ∧
    (s.posting q n = none → out (.wound q n) s ∧ out (.prepTimeout q n) s ∧ exec (.resolveTimer q n) st = .next st) ∧
    ∀ p, s.posting q n = some p →
      (p.wounded = false ∨ p.phase.past = true → out (.wound q n) s) ∧
      (p.wounded = true → p.phase.past = false →
        (p.phase = .partReady ∨ (p.coord.isSome = true ∧ p.phase = .seqWait) →
          out (.wound q n) ((s.setPosting q n { p with wounded := false }).answer p 215 31)) ∧
        (p.phase ≠ .partReady → p.coord = none ∨ p.phase ≠ .seqWait →
          out (.wound q n) (s.fail q n 215 31 s.modid))) ∧
      (p.coord = none → p.phase.past = false → p.op ≠ 0 ∨ p.others ≠ [] → out (.prepTimeout q n) (s.fail q n 221 31 s.modid)) ∧
      (p.coord.isSome = true ∨ p.phase.past = true ∨ (p.op = 0 ∧ p.others = []) → out (.prepTimeout q n) s) ∧
      (p.coord = none ∨ p.phase ≠ .partReady → exec (.resolveTimer q n) st = .next st) ∧
      ∀ m cp l tag, p.coord = some (m, cp, l, tag) → p.phase = .partReady →
        exec (.resolveTimer q n) st = .next { st with sys := s.sendOff m 1 0o13 cp 0 tag (sylsD p.pid) }

/-- R274-R276, R448, R599, R626.
Where the spec leaves a choice, the clauses follow the model's own (log entries 40 and 89). -/
def Obligations.JournalEffects : Prop :=
  ∀ (q : Quad) (dev : Bool) (st : State),
    let s := st.sys
    let out (i : Instr) (t : Sys) : Prop := exec i st = .next { st with sys := t }
    ((s.j0up = false ∧ s.j1up = false) ∨ (s.bu q).stuck = true → out (.journalWrite q) s) ∧
    (s.j0up = true ∨ s.j1up = true → (s.bu q).stuck = false →
      let s := ((s.bu q).recs.filter (fun r => !r.wrote)).foldl (fun x r => x.fetchFor 3 (s.recAddr q r.pos) 128) s
      (∀ r rs, (s.bu q).recs = r :: rs → r.wrote = false → s.poisonedSpan (s.recAddr q r.pos) 128 = true →
        out (.journalWrite q) ((s.setBu q { s.bu q with stuck := true }).custodyNotice (3 * q) 2)) ∧
      ((∀ r ∈ (s.bu q).recs, r.wrote = false → s.poisonedSpan (s.recAddr q r.pos) 128 = false) →
        let todo := (s.bu q).recs.filter (fun r => !r.wrote)
        let n := (s.bu q).batch + 1
        (todo = [] → out (.journalWrite q) s) ∧
        (todo ≠ [] → out (.journalWrite q)
          ((s.deviceWrite q (todo.map (fun r => (r.seqn, s.rd (s.recAddr q r.pos) 128)))).setBu q
            { s.bu q with
              batch := n,
              fl0 := if s.j0up then (s.bu q).fl0 ++ [n] else (s.bu q).fl0,
              fl1 := if s.j1up then (s.bu q).fl1 ++ [n] else (s.bu q).fl1,
              recs := (s.bu q).recs.map (fun r =>
                if r.wrote then r else { r with wrote := true, batch := n, need0 := s.j0up, need1 := s.j1up }) })))) ∧
    (∀ l : List (Nat × List Syl), l ≠ [] → l.length ≤ 28 →
      let recs := l.map (fun r => r.2.map octet ++ (List.range 16).map (fun i => markOctet (((r.2.drop (8 * i)).take 8).map mark)))
      let os := recs.flatMap id
      let blk : JBlock := { quad := q, seqn := (l.head?.map (fun r => r.1)).getD 0, count := l.length,
                            crc := crcOctets (os ++ List.replicate (4032 - os.length) 0), recs := recs }
      s.deviceWrite q l = { s with jdev0 := if s.j0up then blk :: s.jdev0 else s.jdev0,
                                   jdev1 := if s.j1up then blk :: s.jdev1 else s.jdev1 }) ∧
    ((if dev then (s.bu q).fl1 else (s.bu q).fl0) = [] → out (.flushComplete q dev) s.balance) ∧
    (∀ n l, (if dev then (s.bu q).fl1 else (s.bu q).fl0) = n :: l → out (.flushComplete q dev)
      (((((s.setBu q { s.bu q with
          fl0 := if dev then (s.bu q).fl0 else l,
          fl1 := if dev then l else (s.bu q).fl1,
          recs := (s.bu q).recs.map (fun r => if r.wrote ∧ r.batch ≤ n then
            (if dev then { r with need1 := false } else { r with need0 := false }) else r) }).settle q).streamFlushed q dev
        n).packStreams).balance)) ∧
    (∀ (s : Sys), s.settle q = ((s.bu q).recs.filter (fun r => r.wrote && !r.need0 && !r.need1 && r.pack.isNone)).foldl
      (fun s r => match r.slot with
        | some n => s.durableFor q n
        | none => s) (s.setBu q { s.bu q with recs := (s.bu q).recs.filter (fun r => !(r.wrote && !r.need0 && !r.need1 && r.pack.isNone)) })) ∧
    (let s' : Sys := { s with
       j0up := s.j0up && dev, j1up := s.j1up && !dev,
       bus := s.bus.map (fun b => (b.1, if dev then { b.2 with fl1 := [] } else { b.2 with fl0 := [] })) }
     let p : Pwr := if dev then { st.pwr with j1Low := true } else { st.pwr with j0Low := true }
     exec (.journalDeviceOffline dev) st = .next { st with
       pwr := p, sys := (if s'.j0up || s'.j1up then s' else s'.failAll Posting.open 225 s.modid).balance }) ∧
    (let s' : Sys := if dev then { s with j1up := true } else { s with j0up := true }
     let p : Pwr := if dev then { st.pwr with j1Low := false } else { st.pwr with j0Low := false }
     exec (.journalDeviceOnline dev) st = .next { st with pwr := p, sys := s'.streamOnline })

/-- R278-R285, R562.
Where the spec leaves a choice, the clauses follow the model's own (log entries 6, 38, 41, 42 and 96). -/
def Obligations.PostingMessages : Prop :=
  ∀ (h : PktHdr) (m : PrepMsg) (pid sq : DWord) (leg : Nat) (ok : Bool) (st : State) (s1 : Sys),
    let s := st.sys
    let out (i : Instr) (t : Sys) : Prop := exec i st = .next { st with sys := t }
    let outB (i : Instr) (t : Sys) : Prop := exec i st = .next { st with sys := t.balance }
    (s.rxCheck h true = (s1, false) →
      (∀ i ∈ [Instr.prepPacket h m, .commitPacket h pid sq, .abortPacket h pid], outB i s1) ∧ out (.resolve h pid) s1) ∧
    (s.rxCheck h false = (s1, false) → ∀ i ∈ [Instr.pans h pid leg, .resolved h pid ok sq], outB i s1) ∧
    (s.rxCheck h true = (s1, true) →
      let q := quadOfLink h.link
      let part := (m.legs.head?.map (fun l => l.lpart)).getD 0
      ((s1.bu q).preps ≠ [] ∨ s1.freeSlot q = none ∨ s1.roomFor q m.legs.length true (some part) = false →
        outB (.prepPacket h m) (s1.setBu q { s1.bu q with preps := (s1.bu q).preps ++ [(h, m)] })) ∧
      (∀ n, (s1.bu q).preps = [] → s1.freeSlot q = some n → s1.roomFor q m.legs.length true (some part) = true →
        let p : Posting :=
          { slot := n, op := 1, sub := none, part := part, ring := none, pid := m.pid, dur := false, fmt := m.fmt,
            tmo := m.tmo, curs := m.curs, legs := m.legs.map (fun l => { l with rmt := false }), age := m.age, task := (0, 0),
            phase := .lockWait, coord := some (h.src.toNat, m.cpart, h.link.val, h.tag), ord := (s1.bu q).accepts }
        let t := s1.setBu q { s1.bu q with accepts := (s1.bu q).accepts + 1, posts := tset (s1.bu q).posts n p }
        (∀ l, m.legs.find? (fun l => (t.part l.lpart).st = 0 || !t.groupOk m.cpart l.lpart) = some l →
          outB (.prepPacket h m) (t.fail q n 210 l.idx t.modid)) ∧
        (m.legs.find? (fun l => (t.part l.lpart).st = 0 || !t.groupOk m.cpart l.lpart) = none →
          outB (.prepPacket h m) (if (tfind t.tabs.formats m.fmt).isNone then t.fail q n 214 31 t.modid else t.process q n))) ∧
      outB (.commitPacket h pid sq) (s1.partCommit (fun c => c.1 = h.src.toNat) pid sq.toNat) ∧
      outB (.abortPacket h pid) ((s1.setBu q { s1.bu q with
        preps := (s1.bu q).preps.filter (fun x => !(x.1.src = h.src && x.2.pid = pid)) }).partAbort
          (fun c => c.1 = h.src.toNat) pid) ∧
      (s1.decision pid = none → s1.undecided pid = true → out (.resolve h pid) s1) ∧
      ((s1.decision pid).isSome = true ∨ s1.undecided pid = false →
        out (.resolve h pid) (s1.sendOff h.src.toNat 2 0o22 h.part 0 h.tag (sylsD pid ++
          wordsToSyls [if (s1.decision pid).isSome then 1 else 0] ++ sylsD (BitVec.ofNat 72 ((s1.decision pid).getD 0)))))) ∧
    (s.rxCheck h false = (s1, true) →
      (let f (c : Nat × Nat × Nat × BitVec 16) : Bool := c.1 = h.src.toNat || (c.2.2.2 = h.tag && !(s1.epochOf c.1).1)
       outB (.resolved h pid ok sq) (if ok then s1.partCommit f pid sq.toNat else s1.partAbort f pid)) ∧
      (s1.coordOf h pid = none → outB (.pans h pid leg) s1) ∧
      ∀ q n p, s1.coordOf h pid = some (q, n, p) →
        let p1 : Posting := { p with others := p.others.map (fun o => if o.1 = h.src.toNat then (o.1, true, o.2.2) else o) }
        let p2 : Posting := { p with others := p.others.map (fun o => if o.1 = h.src.toNat then (o.1, o.2.1, true) else o) }
        (h.status = 201 → outB (.pans h pid leg)
          (if p.phase = .partWait then (s1.setPosting q n p1).step8 q n else s1.setPosting q n p1)) ∧
        (h.status = 0 → outB (.pans h pid leg)
          (if p.phase = .ackWait ∧ ∀ o ∈ p2.others, o.2.2 = true then
            ((s1.dropPosting q n).report q p2 0 31 p.seqn s1.modid true).unreserve { p2 with resv := p.resv - 1 }
           else s1.setPosting q n p2)) ∧
        (h.status ≠ 201 → h.status ≠ 0 → outB (.pans h pid leg)
          (if p.phase.past then s1 else s1.fail q n h.status leg h.src.toNat)))
/-- R472-R474, R491-R501.
Where the spec leaves a choice, the clauses follow the model's own (log entries 19 and 98). -/
def Obligations.DmaChannels : Prop :=
  ∀ (q : Quad) (ch : Chan) (st : State),
    let s := st.sys
    let c := s.chan q ch
    let d := s.dma q
    let out (i : Instr) (t : Sys) : Prop := exec i st = .next { st with sys := t }
    let badCfg := 4 < cfgSwap c.ccfg ∨ (cfgSwap c.ccfg ≠ 0 ∧ cfgMode c.ccfg = 0) ∨
      (cfgMdir c.ccfg = true ∧ cfgMode c.ccfg ≠ 3) ∨ hfld c.ccfg.toNat 27 0 ≠ 0
    (c.dis = false → let ares (n : Nat) : Prop := out (.dmaArm q ch false) (s.setChan q ch { c with ares := n })
      (dmaOwner s q ch = none → ares 320) ∧
      ∀ p, dmaOwner s q ch = some p →
        (d.halt = true → ares 324) ∧
        (d.halt = false → badCfg → ares 325) ∧
        (d.halt = false → ¬ badCfg → 8 ≤ c.lists.length → ares 322) ∧
        (d.halt = false → ¬ badCfg → c.lists.length < 8 →
          (s.ringFree (s.part p).dcr (s.dmaReserved p) = false → ares 323) ∧
          (s.ringFree (s.part p).dcr (s.dmaReserved p) = true → out (.dmaArm q ch false) (s.setChan q ch
            { c with ares := 0, done := if c.lists = [] then 0 else c.done,
                     lists := c.lists ++ [{ cfg := c.ccfg, task := c.ctask, tag := c.ctag, nextE := c.clist.toNat * 16 }] })))) ∧
    (c.dis = true →
      out (.channelDisable q ch) s ∧ out (.channelEnable q ch) (s.setChan q ch { c with dis := false, done := 0 }) ∧
      ((dmaOwner s q ch).isSome = true → out (.dmaArm q ch true) (s.setChan q ch { c with ares := 321 }))) ∧
    (c.dis = false → out (.channelEnable q ch) s ∧
      (c.lists = [] → out (.channelDisable q ch)
        (let f := s.fresh 36
         let t := f.2.setChan q ch { c with dis := true, done := f.1.toNat }
         if d.halt then t.dmaDrained q else t))) ∧
    (d.halt = true → d.drain = true → out (.haltClear q) (s.setDma q
      { d with halt := false, drain := false, kind := 0, errV := false, errSide := false, errLine := 0 })) ∧
    (d.halt = false ∨ d.drain = false → out (.haltClear q) s) ∧
    (∀ addr, d.halt = true → ∀ k ∈ [BusErr.poison, .status, .timeout], out (.busError q k addr) s) ∧
    (∀ addr, d.halt = false → d.chans = [] →
      ∀ k ∈ [(BusErr.poison, 1, false), (.status, 2, true), (.timeout, 3, true)],
        let d' : Dma :=
          { d with halt := true, drain := true, kind := k.2.1, halts := min 0xffffff (d.halts + 1), errV := true,
                   errSide := k.2.2, errLine := addr / 64 }
        out (.busError q k.1 addr) ((s.setDma q d').custodyNotice (3 * q) 1)) ∧
    ∀ l ls, c.lists = l :: ls → s.chanState q ch = 2 →
      (listDone l = true → l.hostLast.isSome = true → out (.readBack q ch) ((s.dmaAsks q ch).setList q ch { l with readBk := true }).drainAll) ∧
      (listDone l = false ∨ l.hostLast = none → out (.readBack q ch) s.drainAll) ∧
      (listDone l = false → out (.listCompletion q ch) s) ∧
      ∀ p, dmaOwner s q ch = some p → listDone l = true → l.hostLast = none ∨ l.readBk = true → cfgMode l.cfg ≠ 0 →
        let r := (s.part p).dcr
        (s.ringOpen r 16 = false → out (.listCompletion q ch) s) ∧
        (s.ringOpen r 16 = true → out (.listCompletion q ch)
          (let t := (s.ringPut 2 r 16 (dmaRecord q ch (l.stat.getD 0) l.tag l.moved l.nread)).eventTo l.task .dma
           let f := if ls = [] then t.fresh 36 else (0, t)
           f.2.setChan q ch { f.2.chan q ch with lists := ls, done := f.1.toNat }))

/-- R475-R490, R647.
Where the spec leaves a choice, the clauses follow the model's own (log entry 20). -/
def Obligations.DmaLists : Prop :=
  ∀ (q : Quad) (ch : Chan) (st : State) (p : Nat) (l : DList) (ls : List DList),
    let s := st.sys
    let c := s.chan q ch
    let out (i : Instr) (t : Sys) : Prop := exec i st = .next { st with sys := t }
    (s.chanState q ch ≠ 2 → out (.listEntryRead q ch) s ∧ out (.dmaTransferStep q ch) s.drainAll) ∧
    (s.chanState q ch = 2 → c.lists = l :: ls → dmaOwner s q ch = some p →
      let bad (t : Sys) (n : Nat) : Prop := out (.listEntryRead q ch) (t.setList q ch { l with stat := some n, ended := true, bad := l.nread })
      (l.ended = true ∨ s.entryWaits p l.nextE = true → out (.listEntryRead q ch) s) ∧
      (l.ended = false → s.entryWaits p l.nextE = false → 65535 ≤ l.nread → bad s 310) ∧
      (l.ended = false → s.entryWaits p l.nextE = false → l.nread < 65535 →
        let s := s.dxtRead 2 p l.nextE
        (s.dxtXlate p l.nextE 8 false = .fail ∨ (∃ a, s.dxtXlate p l.nextE 8 false = .ok true a) → bad s 311) ∧
        (∀ a, s.dxtXlate p l.nextE 8 false = .poison a → out (.listEntryRead q ch) (s.busError q 1 false (a / 64))) ∧
        ∀ pa, s.dxtXlate p l.nextE 8 false = .ok false pa →
          let r := s.readBy 2 pa 8
          let e := r.rdD pa
          let t := r.entryReads p l.cfg e
          (r.poisoned pa = true → out (.listEntryRead q ch) (r.busError q 1 false (pa / 64))) ∧
          (r.poisoned pa = false →
            (∀ n, t.entryCheck p l.cfg e = .bad n → bad t n) ∧
            (∀ a, t.entryCheck p l.cfg e = .poison a → out (.listEntryRead q ch) (t.busError q 1 false (a / 64))) ∧
            (fld e 0 1 = 3 → kbit e 2 = false → t.entryCheck p l.cfg e = .ok none → out (.listEntryRead q ch)
              (t.setList q ch { l with nread := l.nread + 1, nextE := fld e 32 71 })) ∧
            ∀ g, fld e 0 1 = 0 → t.entryCheck p l.cfg e = .ok (some g) →
              let l' : DList := { l with srcs := l.srcs ++ [g] }
              (kbit e 2 = true → lengthBad l' = true → bad t 312) ∧
              (kbit e 2 = false ∨ lengthBad l' = false → out (.listEntryRead q ch)
                (t.setList q ch { l' with nread := l.nread + 1, ended := kbit e 2, nextE := l.nextE + 8 }))))) ∧
    ∀ pl : Plan, s.chanState q ch = 2 → c.lists = l :: ls → planStep l = some pl →
      let s1 := pl.src.foldl (fun x r => x.fetchFor 2 r.1 r.2)
        ((if cfgMode l.cfg = 0 then id else Sys.dmaAsks q ch) (s.dmaTurn q ch (pl.ma + pl.n)))
      let s2 := pl.src.foldl (fun x r => x.touchSpan 2 r.1 r.2 false) s1
      (0 < pl.n ∧ pl.n ≤ 32 ∧ pl.n ≤ listAvail l ∧ (pl.ma + pl.n - 1) / 32 = pl.ma / 32) ∧
      (s.planWaits l.cfg pl = true ∨ s.dmaGrant q ≠ some ch.val → out (.dmaTransferStep q ch) s.drainAll) ∧
      (s.dmaGrant q = some ch.val → fromHost l.cfg = false → ∀ a, s1.poisonedIn pl.src = some a →
        out (.dmaTransferStep q ch) (s1.busError q 1 false (a / 64)).drainAll) ∧
      (s.dmaGrant q = some ch.val → s1.poisonedIn pl.src = none →
        (∀ da, cfgMode l.cfg = 0 → pl.dst.head?.map (fun x => x.1) = some da →
          let dat := pl.src.flatMap (fun x => s1.rd x.1 x.2)
          (∀ i < dat.length, inSegs l.srcs (da + i) = false) →
          let t := (s2.touchSpan 2 da dat.length true).wrBy 2 da dat
          out (.dmaTransferStep q ch) ((t.setChan q ch { t.chan q ch with done := ((t.chan q ch).done + pl.n) % 2 ^ 36 }).setList q ch
            { l with moved := l.moved + pl.n }).drainAll) ∧
        ∀ sa da, cfgMode l.cfg = 1 → cfgSwap l.cfg = 0 → pl.src = [(sa, pl.n)] → pl.dst = [(da, pl.n)] → ∃ t : Sys,
          out (.dmaTransferStep q ch) t.drainAll ∧ (∀ i < pl.n, t.hget (da + i) = octet (mget s1.mem (sa + i))) ∧
          (t.chan q ch).done = (c.done + pl.n) % 2 ^ 36 ∧ t.mem = s2.mem)
/-- R506-R515, R521.
Where the spec leaves a choice, the clauses follow the model's own (log entries 53 and 54). -/
def Obligations.HostCommands : Prop :=
  (∀ (rsv : Bool) (arg : Nat) (st : State), let s := st.sys
    (s.pf.busy = true → ∀ i ∈ [Instr.nop rsv arg, .featCommit rsv arg, .recoveryOpen rsv arg, .recoveryClose rsv arg,
        .partStart (.pf rsv) arg, .partHold (.pf rsv) arg, .partResume (.pf rsv) arg, .partReset (.pf rsv) arg],
      exec i st = .next { st with sys := s.hostErr 3 0 0x80 }) ∧
    (s.pf.busy = false →
      let t (op : Nat) : Sys := let f := s.fresh 10; { f.2 with pf := { f.2.pf with busy := true, op := op, code := f.1.toNat, run := none } }
      let ends (i : Instr) (op c : Nat) : Prop := exec i st = .next { st with
        sys := (let u := t op; { u with pf := { u.pf with run := some c } }) }
      let all := [(Instr.nop rsv arg, 0), (.featCommit rsv arg, 1), (.partStart (.pf rsv) arg, 2), (.partHold (.pf rsv) arg, 3),
        (.partResume (.pf rsv) arg, 4), (.partReset (.pf rsv) arg, 5), (.recoveryOpen rsv arg, 6), (.recoveryClose rsv arg, 7)]
      (rsv = true ∨ 1023 < arg → ∀ i ∈ all, ends i.1 i.2 101) ∧
      (rsv = false → arg ≤ 1023 →
        (s.pf.ready = false → ∀ i ∈ all, i.2 < 6 → ends i.1 i.2 102) ∧
        (s.pf.ready = true → s.pf.fcomm = false → ∀ i ∈ all, 2 ≤ i.2 → i.2 ≤ 5 → ends i.1 i.2 102) ∧
        (s.pf.ready = true → s.pf.fcomm = true → s.pf.set.testBit 3 = false → ∀ i ∈ all, 2 ≤ i.2 → i.2 ≤ 5 → ends i.1 i.2 101) ∧
        (s.pf.ready = true → ends (.nop rsv arg) 0 0) ∧
        (s.pf.ready = true → s.vfs.any (fun v => v.2.anyOn) = true → ends (.featCommit rsv arg) 1 104) ∧
        (s.pf.ready = true → s.vfs.any (fun v => v.2.anyOn) = false →
          (∀ r b, featCheck s.pf.acc 0x7F0F = some (r, b) → exec (.featCommit rsv arg) st = .next { st with
            sys := (let u := t 1; { u with pf := { u.pf with acc := s.pf.set, errV := true, errR := r, errB := b, run := some 103 } }) }) ∧
          (featCheck s.pf.acc 0x7F0F = none → exec (.featCommit rsv arg) st = .next { st with
            sys := (let u := t 1
                    { u with pf := { u.pf with set := s.pf.acc, fcomm := true, errV := false, errR := 0, errB := 0, run := some 0 } }) })) ∧
        (s.pf.set.testBit 2 = false → st.boot.halted = false → ends (.recoveryOpen rsv arg) 6 101) ∧
        (s.pf.set.testBit 2 = true ∨ st.boot.halted = true → exec (.recoveryOpen rsv arg) st = .next { st with
          sys := (let u := t 6; { u with pf := { u.pf with rwopen := true, run := some 0 } }) }) ∧
        (s.pf.rwbusy = false → exec (.recoveryClose rsv arg) st = .next { st with
          sys := (let u := t 7; { u with pf := { u.pf with rwopen := false, run := some 0 } }) }) ∧
        (s.pf.rwbusy = true → exec (.recoveryClose rsv arg) st = .next { st with sys := t 7 }))) ∧
    (∀ c, s.pf.run = some c → s.pf.busy = true → exec (.commandComplete 0) st = .next { st with
      sys := ({ s with pf := { s.pf with busy := false, code := c, run := none } } : Sys).msix 0 0 }) ∧
    (s.pf.run = none ∨ s.pf.busy = false → exec (.commandComplete 0) st = .next st)) ∧
  ∀ (v : PartId) (rsv : Bool) (arg : Nat) (st : State), let s := st.sys
    let x := s.vf v
    (x.busy = true → exec (.vfFeatCommit v rsv arg) st = .next { st with sys := s.hostErr 3 (v + 1) 0x80 }) ∧
    (x.busy = false →
      let y : Vf := { x with busy := true, op := 1, code := (Config.free 10 s.free).toNat }
      let ends (x : Vf) : Prop :=
        exec (.vfFeatCommit v rsv arg) st = .next { st with sys := ({ s with free := s.free + 1 } : Sys).setVf v x }
      (rsv = true ∨ 1023 < arg → ends { y with run := some 101 }) ∧
      (rsv = false → arg ≤ 1023 →
        (s.pf.ready = false ∨ s.pf.fcomm = false → ends { y with run := some 102 }) ∧
        (s.pf.ready = true → s.pf.fcomm = true →
          (x.anyOn = true → ends { y with run := some 104 }) ∧
          (x.anyOn = false →
            (∀ r b, featCheck x.acc (s.pf.set &&& 0x7F01) = some (r, b) →
              ends { y with acc := x.set, errV := true, errR := r, errB := b, run := some 103 }) ∧
            (featCheck x.acc (s.pf.set &&& 0x7F01) = none →
              ends { y with set := x.acc, fcomm := true, errV := false, errR := 0, errB := 0, run := some 0 })))))

/-- R458-R463.
Where the spec leaves a choice, the clauses follow the model's own (log entries 25 and 50). -/
def Obligations.PartitionLifecycle : Prop :=
  (∀ (p : PartId) (st : State), let s := st.sys
    let e := s.part p
    let all := [(Instr.partStart .custody p, Verb.start), (.partHold .custody p, .hold), (.partResume .custody p, .resume),
      (.partReset .custody p, .reset)]
    let last (n : Nat) (t : Sys) : Sys := t.setPart p (let x := t.part p; { x with last := n })
    (e.st = 0 → ∀ i ∈ all, exec i.1 st = .next st) ∧
    (e.st = 5 → ∀ i ∈ all, exec i.1 st = .next { st with sys := last 620 s }) ∧
    (e.st = 1 → exec (.partHold .custody p) st = .next { st with sys := last 611 s } ∧
      exec (.partResume .custody p) st = .next { st with sys := last 611 s } ∧
      exec (.partReset .custody p) st = .next { st with sys := last 603 (s.setVf p { s.vf p with set := 0, fcomm := false }) } ∧
      ∃ t, exec (.partStart .custody p) st = .next { st with sys := t.setLast p (s.start p).1 } ∧ t = (s.start p).2) ∧
    (e.st = 2 → exec (.partStart .custody p) st = .next { st with sys := last 611 s } ∧
      exec (.partResume .custody p) st = .next { st with sys := last 611 s } ∧
      let t := ((s.setPart p { e with st := 3 }).msix 0 2).askLeave p
      (t.runningOf p = [] → exec (.partHold .custody p) st = .next { st with sys := last 602 t })) ∧
    (e.st = 3 → exec (.partStart .custody p) st = .next { st with sys := last 611 s } ∧
      exec (.partHold .custody p) st = .next { st with sys := last 602 s }) ∧
    (e.st = 4 → exec (.partStart .custody p) st = .next { st with sys := last 611 s } ∧
      exec (.partHold .custody p) st = .next { st with sys := last 611 s } ∧
      exec (.partResume .custody p) st = .next { st with sys := last 611 s } ∧
      exec (.partReset .custody p) st = .next { st with sys := s.setPart p e } ∧
      ((s.cancelTasks p).hasTasks p = true → ((s.cancelTasks p).part p).holding = none →
        exec (.holdComplete p) st = .next { st with sys := s.cancelTasks p })) ∧
    (e.st ≠ 4 → e.holding = none → exec (.holdComplete p) st = .next st) ∧
    (e.st = 3 → e.holding = some false → s.runningOf p = [] → exec (.holdComplete p) st = .next { st with
      sys := s.setPart p { e with holding := none, last := 602 } }) ∧
    (e.st = 3 → e.holding = some true → s.runningOf p = [] → s.pf.busy = true → exec (.holdComplete p) st = .next { st with
      sys := (let u := s.setPart p { e with holding := none, last := 602 }; { u with pf := { u.pf with run := some 602 } }) }) ∧
    (e.st ≠ 4 → e.holding.isSome = true → s.runningOf p ≠ [] → exec (.holdComplete p) st = .next st)) ∧
  (∀ (p : PartId) (o : Origin) (st : State),
    o = .custody ∨ (o = .pf false ∧ st.sys.pf.busy = false ∧ st.sys.pf.ready = true ∧ st.sys.pf.fcomm = true ∧
      st.sys.pf.set.testBit 3 = true) →
    let e := st.sys.part p
    let taken (op : Nat) : Sys := if o = .custody then st.sys else
      (let f := st.sys.fresh 10; { f.2 with pf := { f.2.pf with busy := true, op := op, code := f.1.toNat, run := none } })
    let ends (i : Instr) (c : Nat) (u : Sys) : Prop := exec i st = .next { st with
      sys := (let v := u.setLast p c; if o = .custody then v else { v with pf := { v.pf with run := some c } }) }
    (e.st = 1 →
      let z := (taken 2).ringsZero p
      let c := e.firstCluster
      ((taken 2).freeIndex c = none → ends (.partStart o p) 613 (taken 2)) ∧
      ∀ i, (taken 2).freeIndex c = some i →
        let gen := z.nextGen c i
        let id := taskId c i gen
        let u := z.setState p 2
        ends (.partStart o p) 601 ((((u.setPart p { u.part p with init := some (c, id) }).setTask c i
          { state := 1, part := p, gen := gen, init := some (z.initCtx p c i id) }).becomeReady c i).noticeFree p 2 601)) ∧
    (e.st = 2 →
      let u := ((taken 3).setState p 3).askLeave p
      (u.runningOf p = [] → ends (.partHold o p) 602 u) ∧
      (u.runningOf p ≠ [] → exec (.partHold o p) st = .next { st with
        sys := (let v := u.setPart p { u.part p with holding := some (decide (o ≠ .custody) || (u.part p).holding = some true) }
                if o = .custody then v else { v with pf := { v.pf with run := none } }) })) ∧
    (e.st = 3 → ends (.partResume o p) 604
      ((List.range 12).foldl (fun (s : Sys) c => s.pump c) ((taken 4).setState p 2))) ∧
    (e.st = 2 ∨ e.st = 3 → e.after = [] →
      let r := (taken 5).setState p 4
      let a := ((r.setPart p { r.part p with after := if o = .custody then [] else [.report] }).racedEvents p).cancelTasks p
      (a.hasTasks p = true → exec (.partReset o p) st = .next { st with
        sys := if o = .custody then a else { a with pf := { a.pf with run := none } } }) ∧
      (a.hasTasks p = false →
        let b := ((a.disableChannels p).resetPostings p).balance.resetLocks p
        let n := if b.joined then b.launch (.notice 0 (BitVec.ofNat 36 p)) else b
        let v := ((List.range 96).foldl (fun (s : Sys) k => (s.applyInv k (.part p)).modCore k (Core.dropStores p)) n).ringsZero p
        let w := (((v.setPart p { v.part p with held := [] }).vfReset p true).sidesOff p).setState p 1
        let x := (List.range 12).foldl (fun (s : Sys) c => s.pump c) w
        let y := x.setPart p { x.part p with after := [], last := 603 }
        ends (.partReset o p) 603 (if o = .custody then y else { y with pf := { y.pf with run := some 603 } }).rejoined))) ∧
  ∀ (p : PartId) (v : Verb) (o : Instr) (n : Nat) (st : State),
    (n, v, o) ∈ [(2, Verb.start, Instr.partStart (.pf false) p), (3, .hold, .partHold (.pf false) p),
      (4, .resume, .partResume (.pf false) p), (5, .reset, .partReset (.pf false) p)] →
    let s := st.sys
    s.pf.busy = false → s.pf.ready = true → s.pf.fcomm = true → s.pf.set.testBit 3 = true →
    let f := s.fresh 10
    let r := ({ f.2 with pf := { f.2.pf with busy := true, op := n, code := f.1.toNat, run := none } } : Sys).lifecycle v p true
    exec o st = .next { st with sys := (let u := r.2; { u with pf := { u.pf with run := r.1 } }) }

/-- R506, R516-R519.
Where the spec leaves a choice, the clauses follow the model's own (log entries 55, 56 and 57). -/
def Obligations.QueuePairs : Prop :=
  ∀ (v : PartId) (q : Fin 8) (value : Nat) (st : State),
    let s := st.sys
    let x := s.qp v q
    let out (i : Instr) (t : Sys) : Prop := exec i st = .next { st with sys := t }
    let ix := value % 4096
    let cfg := value % 2 ^ 15 + value / 2 ^ 20 % 2 ^ 15 * 2 ^ 20
    let regs := [(Instr.sqDoorbell v q value, 0x18), (.cqDoorbell v q value, 0x20), (.queueEnable v q value, 0x10), (.queueDisable v q value, 0x10)]
    (s.pf.ready = false → ∀ i ∈ regs, out i.1 s) ∧
    (s.pf.ready = true → s.qpOffered v q = false → ∀ i ∈ regs, out i.1 (s.hostErr 2 (v + 1) (0x1000 * (q + 1) + i.2))) ∧
    (s.pf.ready = true → s.qpOffered v q = true → value < 2 ^ 35 →
      (x.en = false → out (.sqDoorbell v q value) s ∧ out (.cqDoorbell v q value) s ∧
        (qcfgOk (s.vf v).set q (cfg + 2 ^ 35) = true → out (.queueEnable v q value) (s.setQp v q (Qp.started
          { x with qcfg := BitVec.ofNat 36 (cfg + 2 ^ 35), code := 0, sqtail := 0, cqhead := 0, sqhd := 0, cqtl := 0,
                   phase := true, subs := [], coal := false }))) ∧
        (qcfgOk (s.vf v).set q (cfg + 2 ^ 35) = false → out (.queueEnable v q value) (s.setQp v q
          { x with qcfg := BitVec.ofNat 36 cfg, st := 0, code := 110 })) ∧
        out (.queueDisable v q value) (s.setQp v q { x with qcfg := BitVec.ofNat 36 cfg })) ∧
      (x.en = true → out (.queueEnable v q value) s ∧ out (.queueDisable v q value) (s.setQp v q x.disabled) ∧
        (ix < x.size → out (.sqDoorbell v q value) (s.setQp v q { x with sqtail := BitVec.ofNat 36 ix }) ∧
          out (.cqDoorbell v q value) (s.setQp v q { x with cqhead := BitVec.ofNat 36 ix })) ∧
        (x.size ≤ ix →
          out (.sqDoorbell v q value) (s.setQp v q { x with sqtail := BitVec.ofNat 36 ix, st := 3, code := 114 }) ∧
          out (.cqDoorbell v q value) (s.setQp v q { x with cqhead := BitVec.ofNat 36 ix, st := 3, code := 114 })))) ∧
    (∀ err, x.st ≠ 2 ∨ x.sqhd = x.sqtail.toNat ∨ ((s.part v).st ≠ 2 ∧ (s.part v).st ≠ 3) → out (.submission v q err) s) ∧
    ((s.part v).st = 2 ∨ (s.part v).st = 3 → x.st = 2 → x.sqhd ≠ x.sqtail.toNat → 0 < x.size →
      let e := s.hgets (x.sqbase.toNat * 4096 + 32 * x.sqhd) 32
      let len := leNat ((e.drop 4).take 4)
      let cid := leNat (e.take 2)
      let c := if (e[3]?).getD 0 ≠ 0 ∨ leNat ((e.drop 20).take 4) ≠ 0 then 117
        else if len = 0 ∨ slotSize x.slotsz - 16 < len then 111
        else if len % swapGroup x.swap ≠ 0 then 116 else 0
      let y : Qp := { x with sqhd := (x.sqhd + 1) % x.size }
      let f := s.fresh 1
      let broken (t : Sys) : Sys := t.setQp v q { t.qp v q with st := 3, code := 113 }
      (c ≠ 0 → x.cqFull = true → out (.submission v q false) s) ∧
      (c ≠ 0 → x.cqFull = false → out (.submission v q false) ((s.setQp v q y).complete v q cid c 0)) ∧
      (f.1 = 0 → out (.submission v q true) (broken f.2)) ∧
      (f.1 ≠ 0 → (x.cqFull = true → out (.submission v q true) f.2) ∧
        (x.cqFull = false → out (.submission v q true) (broken (if c = 0 then (f.2.setQp v q y).complete v q cid 113 0 else f.2.setQp v q y)))) ∧
      (c = 0 → ∀ z task ring lg, x.side = some (z, task, ring, lg) →
        (s.ringFree (lg, ring) 0 = false ∨ s.ringOpen (lg, ring) (slotSize x.slotsz) = false → out (.submission v q false) s) ∧
        (s.ringFree (lg, ring) 0 = true → s.ringOpen (lg, ring) (slotSize x.slotsz) = true → out (.submission v q false)
          (((({ s with free := s.free + 16 } : Sys).ringPut 6 (lg, ring) (slotSize x.slotsz)
            (slotHeader s.free ((e[2]?).getD 0) ++ s.hostSyls x (leNat ((e.drop 8).take 8)) len)).setQp v q
              { y with subs := x.subs ++ [{ cid := cid, addr := leNat ((e.drop 24).take 8),
                                            max := leNat ((e.drop 16).take 4) }] }).eventTo task .doorbell)))) ∧
    (∀ cid rec,
      let x' : Qp := { x with sent := (x.sent + 1) % 2 ^ 36 }
      let data := rec.take (slotSize x.slotsz - 16)
      let n := data.length
      let broken (t : Sys) : Sys := t.setQp v q { t.qp v q with st := 3, code := 113 }
      (x.subs.find? (fun u => u.cid = cid) = none → ∀ err, out (.responseSend v q cid rec err) (s.setQp v q
        { x' with stray := min 0xffffff (x.stray + 1) })) ∧
      ∀ u, x.subs.find? (fun u => u.cid = cid) = some u →
        let t := s.setQp v q { x' with subs := dropSub cid x.subs }
        let c := if u.max < n then 112 else if n % swapGroup x.swap ≠ 0 then 116 else 0
        let f := t.fresh 1
        (x.cqFull = true → ∀ err, out (.responseSend v q cid rec err) s) ∧
        (x.cqFull = false →
          (c ≠ 0 → out (.responseSend v q cid rec false) (t.complete v q cid c (if c = 112 then n else 0)) ∧
            out (.responseSend v q cid rec true) (broken t)) ∧
          (c = 0 → out (.responseSend v q cid rec false) ((t.hostPutSyls x' u.addr data).complete v q cid 0 n) ∧
            out (.responseSend v q cid rec true) (broken (if f.1 = 0 then (f.2.hostFree u.addr n).complete v q cid 113 0
              else f.2.hostPutSyls x' u.addr data))))) ∧
    (x.coal = true → out (.coalesceExpiry v q) ((s.setQp v q { x with coal := false }).msix (v + 1) x.vec)) ∧
    (x.coal = false → out (.coalesceExpiry v q) s) ∧
    ∀ (z : Fin 4) (task : Word) (ring log2 : Nat),
      let y : Qp := { x with side := some (z, task, ring, log2) }
      out (.partitionSideSetup v q z task ring log2)
        (s.setQp v q (if x.st = 1 then { y with st := if z.val = x.slotsz then 2 else 1 } else y))

/-- R521, R603.
Where the spec leaves a choice, the clauses follow the model's own (log entry 59). -/
def Obligations.RecoveryWindow : Prop :=
  ∀ (i3c fails : Bool) (len : Nat) (st : State),
    let pf := st.sys.pf
    let a := pf.rwaddr
    let lo := if st.boot.chosen then 0x4000000 else 0
    let run (c : Nat) (r : Option (Nat × Nat)) (s : State) : Out :=
      .next { s with sys := { s.sys with pf := { s.sys.pf with rwbusy := true, rwrun := c, rwrange := r } } }
    let f := st.sys.fresh 1
    let st' : State := { st with sys := f.2 }
    let ops := [(Instr.flashRead i3c len, len, false, st), (.flashProgram i3c len fails, len, false, st),
      (.flashVerify i3c len, len, false, st), (.flashErase i3c, 0x10000, true, st')]
    let ok (n : Nat) : Prop := pf.rwbusy = false ∧ pf.rwopen = true ∧ a + n ≤ 0x8000000 ∧
      (pf.ready = true → lo + 0x4000000 ≤ a ∨ a + n ≤ lo)
    (pf.rwbusy = true → ∀ i ∈ ops, exec i.1 st = .next { st with sys := i.2.2.2.sys.hostErr 3 0 0x10000 }) ∧
    (pf.rwbusy = false → pf.rwopen = false → ∀ i ∈ ops, exec i.1 st = run 123 none i.2.2.2) ∧
    (pf.rwbusy = false → pf.rwopen = true → ∀ i ∈ ops,
      (0x8000000 < a + i.2.1 ∨ (i.2.2.1 = true ∧ a % 0x10000 ≠ 0) ∨ (i.2.2.1 = false ∧ (len = 0 ∨ 4096 < len)) → exec i.1 st = run 120 none i.2.2.2) ∧
      (a + i.2.1 ≤ 0x8000000 → (i.2.2.1 = true → a % 0x10000 = 0) → (i.2.2.1 = false → 0 < len ∧ len ≤ 4096) → pf.ready = true →
        a < lo + 0x4000000 → lo < a + i.2.1 → exec i.1 st = run 121 none i.2.2.2)) ∧
    (ok len → 0 < len → len ≤ 4096 →
      (∃ t, exec (.flashRead i3c len) st = run 0 none { st with sys := t } ∧ t = { st.sys with pf := { pf with buf := t.pf.buf } } ∧
        ∀ i, tget 0 t.pf.buf i = if i < len then tget 0xFF st.flash (a + i) else tget 0 pf.buf i) ∧
      exec (.flashVerify i3c len) st = run (if flashGets st.flash a len = (List.range len).map (fun i => tget 0 pf.buf i) then 0 else 122) none st ∧
      (Flash.wf st.flash = true → ∃ f, exec (.flashProgram i3c len false) st = run 0 (some (a, len)) { st with flash := f } ∧
        ∀ x, tget 0xFF f x = if a ≤ x ∧ x < a + len then tget 0 pf.buf (x - a) else tget 0xFF st.flash x) ∧
      ∃ f, exec (.flashProgram i3c len true) st = run 122 none { st with flash := f, sys := { st.sys with free := st.sys.free + len } } ∧
        ∀ x, x < a ∨ a + len ≤ x → tget 0xFF f x = tget 0xFF st.flash x) ∧
    (ok 0x10000 → a % 0x10000 = 0 →
      (f.1 ≠ 1 → ∃ g, exec (.flashErase i3c) st = run 0 (some (a, 0x10000)) { st' with flash := g } ∧
        ∀ x, tget 0xFF g x = if a ≤ x ∧ x < a + 0x10000 then 0xFF else tget 0xFF st.flash x) ∧
      (f.1 = 1 → ∃ g, exec (.flashErase i3c) st = run 122 none { st' with flash := g, sys := { f.2 with free := f.2.free + 0x10000 } } ∧
        ∀ x, x < a ∨ a + 0x10000 ≤ x → tget 0xFF g x = tget 0xFF st.flash x)) ∧
    (pf.rwbusy = false → exec .recoveryOpComplete st = .next st) ∧
    (pf.rwbusy = true →
      let closing := pf.busy = true ∧ pf.op = 7 ∧ pf.run = none
      let pf' : Pf :=
        { pf with rwbusy := false, rwcode := pf.rwrun, rwrange := none, rwopen := if closing then false else pf.rwopen,
                  run := if closing then some 0 else pf.run }
      exec .recoveryOpComplete st = .next { st with sys := ({ st.sys with pf := pf' } : Sys).msix 0 4 })

/-- R12, R353, R503-R506, R511, R520, R601, R614.
Where the spec leaves a choice, the clauses follow the model's own (log entries 58, 70, 71 and 73). -/
def Obligations.RegistersAndResets : Prop :=
  (∀ (fn off width value : Nat) (st : State),
    (inBar fn off = false → exec (.registerWrite fn off width value) st = .next st ∧ exec (.narrowRead fn off width) st = .next st) ∧
    (inBar fn off = true →
      (aligned off width = false →
        exec (.registerWrite fn off width value) st = .next { st with sys := st.sys.hostErr 1 fn off } ∧
        exec (.narrowRead fn off width) st = .next { st with sys := st.sys.hostErr 1 fn off }) ∧
      (aligned off width = true → octStore fn off = none →
        (width < 8 → exec (.registerWrite fn off width value) st = .next { st with sys := st.sys.hostErr 0 fn off }) ∧
        (width < 4 → exec (.narrowRead fn off width) st = .next { st with sys := st.sys.hostErr 1 fn off })) ∧
      (aligned off width = true → 4 ≤ width ∨ (octStore fn off).isSome = true →
        (width < 16 → exec (.narrowRead fn off width) st = .next st) ∧
        (16 ≤ width → exec (.narrowRead fn off width) st = .next { st with
          sys := (List.range (width / 8)).foldl (fun (x : Sys) i => x.slotReads fn (off + 8 * i)) st.sys })) ∧
      (aligned off width = true → ∀ a, octStore 0 off = some (.msix, a) → fn = 0 →
        exec (.registerWrite fn off width value) st = .next { st with
          sys := Sys.msixMoved { st.sys with pf := { st.sys.pf with msixT := octsPut st.sys.pf.msixT a width value } } }) ∧
      (aligned off width = true → ∀ a, octStore fn off = some (.staging, a) →
        exec (.registerWrite fn off width value) st = .next { st with
          sys := { st.sys with pf := { st.sys.pf with buf := octsPut st.sys.pf.buf a width value } } }))) ∧
  (∀ (value : Nat) (st : State),
    let s := st.sys
    let v := value % 2 ^ 36
    let w (fn off : Nat) : Instr := .registerWrite fn off 8 value
    (∀ off, off % 8 = 0 → off < 0x100000 → octStore 0 off = none → st.pfSlot off false = none →
      exec (w 0 off) st = .next { st with sys := s.hostErr 2 0 off }) ∧
    exec (w 0 8) st = .next { st with sys := { s with pf := { s.pf with logV := s.pf.logV && !v.testBit 35 } } } ∧
    exec (w 0 0x80) st = .next { st with
      sys := s.pfCommand (v / 2 ^ 30) (decide (v / 2 ^ 10 % 2 ^ 20 ≠ 0)) (v % 2 ^ 10) st.boot.halted } ∧
    (∀ k : Fin 4, s.pf.ready = true → exec (w 0 (0x40 + 8 * k)) st = .next { st with
      sys := { s with pf := { s.pf with acc := featPut s.pf.acc k v } } }) ∧
    (∀ n : Fin 16, s.pf.ready = true → exec (w 0 (0x20100 + 16 * n)) st = .next { st with
      sys := if v.testBit 35 then s.clearLockup n else s }) ∧
    (∀ m : StackId, s.pf.ready = true → exec (w 0 (0x32000 + 0x100 * m)) st = .next { st with
      sys := (let y := s.mc m
              s.setMc m { y with uev := y.uev && !v.testBit 32, cev := y.cev && !v.testBit 31, lost := y.lost && !v.testBit 30 }) }) ∧
    (∀ m : StackId, s.pf.ready = true → exec (w 0 (0x32018 + 0x100 * m)) st = .next { st with
      sys := if v.testBit 35 then (let y := s.mc m; s.setMc m { y with errV := false, errSyn := 0 }) else s }) ∧
    ∀ (p : PartId) (k : Fin 4), s.pf.ready = true → exec (w (p + 1) (0x40 + 8 * k)) st = .next { st with
      sys := (let y := s.vf p; s.setVf p { y with acc := featPut y.acc k v }) }) ∧
  (∀ (st : State) (m : StackId) (l : Link) (c : Cluster) (v : PartId) (q : Fin 8) (n : Fin 16),
    let s := st.sys
    let on (i : Instr) (t : Sys) : Prop := exec i st = .next { st with sys := if s.pf.ready then t else s }
    exec .hiErrcntRead st = .next { st with sys := { s with pf := { s.pf with cnt := 0 } } } ∧
    on (.mcCecntRead m) (let y := s.mc m; s.setMc m { y with ceD := 0, ceS := 0 }) ∧
    on (.mcUecntRead m) (let y := s.mc m; s.setMc m { y with ueN := 0, ueP := 0 }) ∧
    on .scErrcntRead { s with port := { s.port with parerr := 0, noans := 0, stale := 0 } } ∧
    on (.cqLcntRead l) (let y := s.link l; s.setLink l { y with replay := 0, stale := 0, naks := 0 }) ∧
    on (.cbDropRead c) (s.modCamp c (fun y => { y with evDrop := 0, rcDrop := 0 })) ∧
    on (.hiQstatRead v q) (if s.qpOffered v q then (let y := s.qp v q; s.setQp v q { y with stray := 0 }) else s) ∧
    on (.lockupEntryClear n) (if (tfind s.tansy.lk n).isSome then
      ({ s with tansy := { s.tansy with lk := terase s.tansy.lk n } } : Sys).msix 0 1 else s) ∧
    on .lkstatOvfClear { s with tansy := { s.tansy with ovf := false } } ∧
    exec .buSeqhRead st = .next { st with sys := { s with seqlLatch := s.alloc.highest % 2 ^ 36 } }) ∧
  ∀ (st : State) (why : HpReset) (port : Fin 3) (v : PartId),
    (why ≠ .perst false → ∃ t, exec (.hostPortReset why) st = .next t ∧ t.sys.pf.ready = st.sys.pf.ready ∧
      t.sys.pf.fcomm = false ∧ t.sys.pf.set = 0 ∧ t.sys.pf.acc = 0 ∧ t.sys.pf.busy = false ∧ t.sys.pf.run = none ∧
      t.sys.pf.logV = false ∧ t.sys.pf.cnt = 0 ∧ t.sys.pf.rwbusy = false ∧ t.sys.pf.rwopen = st.boot.halted ∧
      t.sys.mem = st.sys.mem ∧ t.sys.cores = st.sys.cores ∧ t.sys.camp = st.sys.camp ∧ t.flash = st.flash ∧
      (t.pwr.perst = true ∨ t.pwr.perst = st.pwr.perst)) ∧
    exec (.hostPortReset (.perst false)) st = .next { st with pwr := { st.pwr with perst := false } } ∧
    exec (.pcieLinkRecovery port) st = .next { st with sys := (let y := st.sys.pf
      { st.sys with pf := { y with recoveries := tset y.recoveries port (tget 0 y.recoveries port + 1) } }) } ∧
    ∃ t, exec (.vfFlr v) st = .next { st with sys := t } ∧ (t.vf v).set = 0 ∧ (t.vf v).acc = (st.sys.vf v).acc ∧ (t.vf v).fcomm = false ∧
      t.cores = st.sys.cores ∧ t.mem = st.sys.mem ∧ t.pf = st.sys.pf ∧ t.host = st.sys.host

/-- R525-R527, R531, R532, R534-R539, R271, R542; the order of the port's queue is the model's (NOTES.md).
Where the spec leaves a choice, the clauses follow the model's own (log entries 60 and 62). -/
def Obligations.ShelfLockCommands : Prop :=
  (∀ (src : Slot64) (lock : LockId) (part : Option PartId) (sq : DWord) (code : Nat) (base : DWord) (y : BusCyc) (st : State),
    let n := lock.val
    let pv := part.map (fun x => x.val)
    let size := 2 ^ (code + 6)
    let role := st.sys.port.role
    let b := if role = 1 then (st.master.lend / size + 1) * size else base.toNat
    let again : Prop := y.rsp = .busy ∨ y.rsp = .parerr ∨ y.rsp = .none
    let rows : List (Instr × Bool × BusMsg × (Sys → Sys) × (Master → Master) × DWord) :=
      [(.lkacq src lock part y, false, .lkacq n pv, id, Master.acquire src n pv, 0),
       (.lkwd src lock part y, false, .lkwd n pv, Sys.withdrawn n pv, Master.withdraw src n pv, 0),
       (.lkabn src lock part y, false, .lkabn n pv, id, Master.abandon src n pv, 0),
       (.lkrel src lock sq y, true, .lkrel n sq.toNat, id, Master.release src n sq.toNat, 0),
       (.lease src code base y, true, .lease code, if code ≤ 10 then Sys.leased b size else id,
        fun m => if code ≤ 10 then { m with lend := max m.lend (b + size - 1) } else m, BitVec.ofNat 72 b)]
    ∀ r ∈ rows,
      let c := r.2.2.1
      let s := st.modPort (fun p => { (p.pass y.idle).pass (toOpen r.2.1 (p.pass y.idle).count) with drove := none, answer := none })
      let m : Master := if role = 1 ∨ role = 2 then r.2.2.2.2.1 st.master else st.master
      let fin (t : State) : Prop := exec r.1 st = .next (t.modPort (Port.taken r.2.1))
      let mute := st.sys.port.mute
      let ans : Rsp := if mustRepeat y.rsp then y.rsp else if role = 1 then (if mute then .none else s.masterAnswer src c) else y.rsp
      (src.val ≠ st.sys.img.mySlot.val →
        let u := if role = 1 ∧ mute = false ∧ y.rsp ≠ .none then s.respond ans (if ans = .ack then r.2.2.2.2.2 else 0) else s
        fin (if ans = .ack ∨ ans = .queued then { u with master := m } else u)) ∧
      (src.val = st.sys.img.mySlot.val →
        (s.wins false y = false → exec r.1 st = .next s) ∧
        (s.wins false y = true →
          (role = 3 ∨ st.sys.port.out.head? ≠ some c → fin s) ∧
          ∀ ds, st.sys.port.out = c :: ds → role ≠ 3 →
            let d := s.drive (s.sys.wires c)
            let t := d.modPort (fun p => { p with out := ds, again := false })
            let u := if role = 1 then t.respond ans r.2.2.2.2.2 else t
            (again ∨ ans = .none → fin (d.modPort (fun p => if ans = .parerr then { p with parerr := min 4095 (p.parerr + 1) }
              else { p with noans := min 4095 (p.noans + 1) }))) ∧
            (¬ again → ans ≠ .none →
              (ans = .stale → fin { u with sys := Sys.actStale { u.sys with
                port := { u.sys.port with stale := min 4095 (u.sys.port.stale + 1) } } }) ∧
              (ans = .refused → fin u) ∧
              (ans = .ack ∨ ans = .queued → fin { u with sys := r.2.2.2.1 u.sys, master := m }))))) ∧
  (∀ (src n sq code : Nat) (part : Option Nat) (s : State),
    let live := (s.sys.epSlot src).live
    let l := s.master.lock n
    (live = false → ∀ c ∈ [BusMsg.lkacq n part, .lkwd n part, .lkabn n part, .lkrel n sq, .lease code], s.masterAnswer src c = .stale) ∧
    s.masterAnswer src .join = (if live then .refused else .ack) ∧
    (live = true →
      (l.holder = none → s.masterAnswer src (.lkacq n part) = .ack) ∧
      (∀ h, l.holder = some h → s.masterAnswer src (.lkacq n part) =
        (if h.1 = src ∨ ∃ w ∈ l.wait, w.1 = src then .refused else .queued)) ∧
      s.masterAnswer src (.lkwd n part) = (if (src, part) ∈ l.wait then .ack else .refused) ∧
      s.masterAnswer src (.lkabn n part) = (if l.holder = some (src, part) then .ack else .refused) ∧
      s.masterAnswer src (.lkrel n sq) = (if l.holder.map (fun h => h.1) = some src then .ack else .refused) ∧
      s.masterAnswer src (.lease code) = (if code ≤ 10 then .ack else .refused))) ∧
  (∀ (src n sq : Nat) (part : Option Nat) (m : Master) (l : MLock), tget {} m.locks n = l →
    let put (l : MLock) (m : Master) : Master := { m with locks := tset m.locks n l }
    (l.holder = none → l.wait = [] → m.acquire src n part =
      { m with locks := tset m.locks n { l with holder := some (src, part), wait := [], ab := false },
               out := m.out ++ [.grant src n l.sq l.ab] }) ∧
    (∀ h, l.holder = some h →
      ((h.1 = src ∨ ∃ w ∈ l.wait, w.1 = src) → m.acquire src n part = m) ∧
      (h.1 ≠ src → (∀ w ∈ l.wait, w.1 ≠ src) → m.acquire src n part = put { l with wait := l.wait ++ [(src, part)] } m) ∧
      (h.1 ≠ src → m.release src n sq = m) ∧
      (h ≠ (src, part) → m.abandon src n part = m) ∧
      (l.wait = [] →
        (h.1 = src → m.release src n sq = put { l with sq := sq, holder := none } m) ∧
        (h = (src, part) → m.abandon src n part = put { l with ab := true, holder := none } m)) ∧
      ∀ w ws, l.wait = w :: ws →
        (h.1 = src → m.release src n sq =
          { m with locks := tset m.locks n { l with sq := sq, holder := some w, wait := ws, ab := false },
                   out := m.out ++ [.grant w.1 n sq l.ab] }) ∧
        (h = (src, part) → m.abandon src n part =
          { m with locks := tset m.locks n { l with holder := some w, wait := ws, ab := false },
                   out := m.out ++ [.grant w.1 n l.sq true] })) ∧
    m.withdraw src n part = put { l with wait := l.wait.filter (fun w => w ≠ (src, part)) } m) ∧
  (∀ (dst : Slot64) (lock : LockId) (sq : DWord) (y : BusCyc) (st : State),
    ∀ i ∈ [(Instr.grant dst lock sq y, false), (.grantAb dst lock sq y, true)],
      let c : BusMsg := .grant dst lock sq.toNat i.2
      let s := st.modPort (fun p => { (p.pass y.idle).pass (toOpen true (p.pass y.idle).count) with drove := none, answer := none })
      let own := dst.val = s.sys.img.mySlot.val
      let by' : Nat := if st.sys.port.role = 1 then s.sys.img.mySlot else y.master
      let ans : Rsp := if mustRepeat y.rsp = true ∨ ¬ own then y.rsp else if (s.sys.epSlot by').live then .ack else .stale
      let took (x : Sys) : Sys := if own ∧ (s.sys.epSlot dst).live = true ∧ ans = .ack then x.granted lock sq.toNat i.2 else x
      let fin (t : State) : Prop := exec i.1 st = .next (t.modPort (Port.taken true))
      (st.sys.port.role = 1 → s.wins false y = false → exec i.1 st = .next s) ∧
      (st.sys.port.role = 1 → s.wins false y = true →
        (st.master.out.head? ≠ some c → fin s) ∧
        ∀ ds, st.master.out = c :: ds →
          let d := s.drive (s.sys.wires c)
          let t : State := { d with master := { st.master with out := ds, again := false } }
          (mustRepeat ans = true → fin (d.modPort (fun p => if ans = .parerr then { p with parerr := min 4095 (p.parerr + 1) }
            else { p with noans := min 4095 (p.noans + 1) }))) ∧
          (ans = .stale → fin { t with sys := Sys.actStale { t.sys with
            port := { t.sys.port with stale := min 4095 (t.sys.port.stale + 1) } } }) ∧
          (mustRepeat ans = false → ans ≠ .stale → fin { t with sys := took t.sys })) ∧
      (st.sys.port.role ≠ 1 →
        let u := if own ∧ y.rsp ≠ .none then s.respond ans 0 else s
        (ans ≠ .ack → fin u) ∧
        (ans = .ack → fin { u with sys := took u.sys, master := if st.sys.port.role = 2 then
          { st.master with out := st.master.out.erase c } else st.master }))) ∧
  (∀ (lock sq : Nat) (ab : Bool) (s : Sys) (r : LockReq) (rs : List LockReq), (s.raiseFloor sq).lockReqs lock = r :: rs →
    r.st = .sent → (∀ m ∈ (s.raiseFloor sq).port.out, namesLock lock m = false) →
    s.granted lock sq ab = ((s.raiseFloor sq).setLockReqs lock ({ r with st := .granted ab sq } :: rs)).eventTo r.task.2 .scb) ∧
  (∀ (lock sq : Nat) (ab : Bool) (s : Sys), (s.raiseFloor sq).lockReqs lock = [] →
    s.granted lock sq ab = (s.raiseFloor sq).launch (if ab then .lkabn lock none else .lkrel lock sq)) ∧
  (∀ (free : Bool) (y : BusCyc) (s : State), s.wins free y = true ↔
    (s.sys.port.tsync = true ∨ free = true) ∧ ∀ r ∈ y.rivals, r = s.sys.img.mySlot ∨
      (r.val + s.sys.port.acount.toNat) % 64 < (s.sys.img.mySlot.val + s.sys.port.acount.toNat) % 64) ∧
  (∀ p : Port, (p.pass 1).count = (p.count + 1) % 2 ^ 72 ∧
    (p.count % 256 < 254 → (p.pass 1).acount = p.acount + 1) ∧ (254 ≤ p.count % 256 → (p.pass 1).acount = p.acount)) ∧
  ∀ (b n : Nat) (s : Sys),
    let s' : Sys := { s with alloc := { s.alloc with asking := false } }
    (b ≤ s.alloc.floor → s.leased b n = s'.askLease) ∧
    (s.alloc.floor < b → s.leased b n =
      { s' with alloc := { s'.alloc with leases := s.alloc.leases ++ [(b, b + n - 1)] } })

/-- R525, R527, R540-R544, R559, R560.
Where the spec leaves a choice, the clauses follow the model's own (log entries 60, 61, 62 and 97). -/
def Obligations.ShelfLivenessCommands : Prop :=
  (∀ (sl : Slot64) (live : Bool) (ident : BitVec 18) (ep : BitVec 16) (count : DWord) (ac : BitVec 6) (p : PartId) (ent : Word)
    (y : BusCyc) (st : State),
    let own : Prop := sl.val = st.sys.img.mySlot.val
    let role := st.sys.port.role
    let e := st.sys.epSlot sl
    let id := ident.toNat
    let s (pair : Bool) : State := st.modPort (fun p =>
      { (p.pass y.idle).pass (toOpen pair (p.pass y.idle).count) with drove := none, answer := none })
    let fin (i : Instr) (pair : Bool) (t : State) : Prop := exec i st = .next (t.modPort (Port.taken pair))
    let again : Prop := y.rsp = .busy ∨ y.rsp = .parerr ∨ y.rsp = .none
    let put (s : State) (l : List BusMsg) : State := if (s.sys.port.role = 1 ∨ s.sys.port.role = 2) ∧
        ∀ m ∈ s.master.out, epochFor sl m = false then { s with master := { s.master with out := s.master.out ++ l } } else s
    let declared (s : State) : State := if e.live then put s [.epoch sl false e.ident (e.epoch + 1).toNat] else s
    let joined (first : Bool) (s : State) : State := if e.live then declared s
      else put s ((if first then [] else [.epoch sl false id (e.epoch + 1).toNat]) ++ [.epoch sl true id (e.epoch + 1).toNat])
    let seen (s : State) : State :=
      let port : Port := { s.sys.port with slots := tset s.sys.port.slots sl { live := live, epoch := ep, ident := id } }
      let x : Sys := { s.sys with port := port }
      let x := (x.img.peers.filter (fun p => p.slot = some sl.val)).foldl (fun (x : Sys) p => x.recordEpoch p.ident live ep) x
      { s with sys := if sl.val = x.img.mySlot.val ∧ ¬ ((s.sys.epSlot sl).live = live ∧ (s.sys.epSlot sl).epoch = ep)
                        then x.ownEpoch live ep else x,
               master := if live = false ∧ (s.sys.port.role = 1 ∨ s.sys.port.role = 2) then s.master.dead sl else s.master }
    (¬ own → ∀ i ∈ [(Instr.hb sl ep y, 1), (.partitionReset sl p y, 7), (.lockupNotice sl ent y, 23)],
      fin i.1 false ((s false).heard sl (i.2, sl) y (fun t => t))) ∧
    (own → exec (.hb sl ep y) st = .next (if (s false).wins false y then
      ((s false).drive { cmd := 0b0001, id := 0, adr := 0, dat := mkd (mkw 36 [(35, ep.toNat)]) 0 }).modPort (Port.taken false) else s false)) ∧
    (role ≠ 1 → fin (.time count ac y) true ((s true).heard y.master (12, 0) y
      (fun t => t.modPort (fun p => { p with count := count.toNat, acount := ac, tsync := true })))) ∧
    (role = 1 → exec (.time count ac y) st = .next (if (s true).wins true y then
      (((s true).drive (timeWires (s true).sys.port.count (s true).sys.port.acount)).modPort (fun p =>
        { p with tsync := true })).modPort (Port.taken true) else s true)) ∧
    (role ≠ 1 → fin (.epoch sl live ident ep y) false ((s false).heard y.master (if live then 21 else 5, sl) y (fun t =>
      seen (if t.sys.port.role = 1 ∨ t.sys.port.role = 2 then
        { t with master := { t.master with out := t.master.out.filter (fun c => !epochFor sl c) } } else t)))) ∧
    (role = 1 →
      (∀ ds, st.master.out = .epoch sl live id ep.toNat :: ds →
        ((s false).wins false y = false → exec (.epoch sl live ident ep y) st = .next (s false)) ∧
        ((s false).wins false y = true →
          let d := (s false).drive ((s false).sys.wires (.epoch sl live id ep.toNat))
          (st.master.again = false →
            let t := seen { d with master := { st.master with again := true } }
            fin (.epoch sl live ident ep y) false { t with sys := t.sys.tellPeers live id ep }) ∧
          (st.master.again = true → fin (.epoch sl live ident ep y) false
            { d with master := { st.master with out := ds, again := false } }))) ∧
      (st.master.out.head? ≠ some (.epoch sl live id ep.toNat) →
        fin (.epoch sl live ident ep y) false (if own ∧ live = false then seen (s false) else s false))) ∧
    (¬ own →
      let u := if role = 1 ∧ st.sys.port.mute = false ∧ y.rsp ≠ .none then
        (s false).respond (if mustRepeat y.rsp then y.rsp else if e.live then .refused else .ack) 0 else s false
      (again ∨ (role = 1 ∧ st.sys.port.mute = true) → fin (.join sl ident y) false u) ∧
      (¬ again → ¬ (role = 1 ∧ st.sys.port.mute = true) → fin (.join sl ident y) false (joined false u))) ∧
    (own →
      let first : Prop := role = 3 ∧ st.sys.img.mySlot = st.sys.img.mSlot ∧ st.sys.port.takeovers = 0
      ((s false).wins (decide first) y = false → exec (.join sl ident y) st = .next (s false)) ∧
      ((s false).wins (decide first) y = true →
        (st.sys.port.out.head? ≠ some .join → fin (.join sl ident y) false (s false)) ∧
        ∀ ds, st.sys.port.out = .join :: ds →
          let d := (s false).drive ((s false).sys.wires .join)
          let t := d.modPort (fun p => { p with out := ds, again := false })
          (first → fin (.join sl ident y) false (joined true ((t.modPort (fun p => { p with role := 1 })).respond .ack 0))) ∧
          (¬ first → again → fin (.join sl ident y) false (d.modPort (fun p =>
            if y.rsp = .parerr then { p with parerr := min 4095 (p.parerr + 1) } else { p with noans := min 4095 (p.noans + 1) }))) ∧
          (¬ first → ¬ again → fin (.join sl ident y) false (joined false t)))) ∧
    (own → ∀ i ∈ [(Instr.partitionReset sl p y, BusMsg.notice 0 (BitVec.ofNat 36 p)), (.lockupNotice sl ent y, .notice 1 ent)],
      ((s false).wins false y = false → exec i.1 st = .next (s false)) ∧
      ((s false).wins false y = true →
        (role = 3 ∨ st.sys.port.out.head? ≠ some i.2 → fin i.1 false (s false)) ∧
        ∀ ds, role ≠ 3 → st.sys.port.out = i.2 :: ds → fin i.1 false (((s false).drive ((s false).sys.wires i.2)).modPort (fun p =>
          if p.again then { p with out := ds, again := false } else { p with again := true })))) ∧
    (let b := st.modPort (fun p => { (p.pass y.idle).pass (255 - (p.pass y.idle).count % 256) with drove := none, answer := none })
     fin (.fenceNotice sl y) false (b.heard 64 (39, sl) y (fun t => if t.sys.port.role = 1 ∨ t.sys.port.role = 2 then declared t else t))) ∧
    exec (.moduleDead sl) st = .next (if role = 1 then declared st else st)) ∧
  (∀ (by' : Nat) (key : Nat × Nat) (y : BusCyc) (f : State → State) (s : State),
    let o := (tfind s.sys.port.copies by').filter (fun c => (c.1, c.2.1) = key)
    let t (b : Bool) : State := s.modPort (fun p => { p with
      parerr := if b then min 4095 (p.parerr + 1) else p.parerr,
      copies := if o.isSome then terase p.copies by' else tset p.copies by' (key.1, key.2, b) })
    (y.rsp ≠ .parerr → s.heard by' key y f = f (t false)) ∧
    (y.rsp = .parerr → (∀ c, o = some c → c.2.2 = false) → s.heard by' key y f = t true) ∧
    (y.rsp = .parerr → (∃ c, o = some c ∧ c.2.2 = true) → s.heard by' key y f =
      (let u := (t true).modPort (fun p => { p with desync := true })
       if s.sys.port.role = 3 then u else { u with sys := u.sys.rejoin }))) ∧
  (∀ st : State,
    let port := st.sys.port
    let me := st.sys.img.mySlot
    let counted : State :=
      { st with sys := { st.sys with port := { port with takeovers := min 255 (port.takeovers + 1), atS := !port.atS } } }
    let m : Nat := if me = st.sys.img.sSlot then st.sys.img.mSlot else st.sys.img.sSlot
    let em := st.sys.epSlot m
    let c := BusMsg.notice 3 (BitVec.ofNat 36 me)
    (port.role ≠ 2 → (port.role = 1 → port.mute = false) → exec .takeover st = .next counted) ∧
    (port.role = 2 → st.sys.ownLive = false → exec .takeover st = .next counted) ∧
    (port.role = 2 → st.sys.ownLive = true → exec .takeover st = .next { counted with
      sys := { counted.sys with port := { counted.sys.port with role := 1, mute := true, out := c :: port.out } },
      master := { st.master with
        lend := (st.master.lend / 0x20000 + 1) * 0x20000 + 0x1FFFF,
        out := .epoch m false em.ident (em.epoch + 1).toNat :: st.master.out.filter (fun c => !epochFor m c), again := false } }) ∧
    (port.role = 1 → port.mute = true →
      (port.out.head? ≠ some c ∨ (∃ x ∈ st.master.out, epochFor m x = true) → exec .takeover st = .next st) ∧
      ∀ ds, port.out = c :: ds → (∀ x ∈ st.master.out, epochFor m x = false) →
        exec .takeover st = .next ((st.drive (st.sys.wires c)).modPort (fun p => { p with out := ds, again := false, mute := false })))) ∧
  ∀ (s : Sys) (live : Bool) (ep : BitVec 16),
    (live = true → s.port.joining = true →
      let out := s.port.out.filter (fun c => c ≠ .join)
      (s.port.role = 3 → s.ownEpoch live ep =
        (let r := if s.img.mySlot = s.img.mSlot ∨ s.img.mySlot = s.img.sSlot then 2 else 0
         let t : Sys := { s with port := { s.port with epoch := ep, out := out, joining := false, role := r } }
         t.askLease)) ∧
      (s.port.role ≠ 3 → s.ownEpoch live ep =
        (let t : Sys := { s with port := { s.port with epoch := ep, out := out } }
         (s.img.pairs.foldl Sys.endActive t.standbyAgain).rejoined))) ∧
    (live = false → s.port.role ≠ 3 → s.ownEpoch live ep =
      (let t : Sys := { s with port := { s.port with epoch := ep, role := if s.port.role = 1 then 2 else s.port.role } }
       t.loseShelf.rejoin))
/-- R547-R552, R555, R556, R559, R561-R563.
Where the spec leaves a choice, the clauses follow the model's own (log entries 42, 63 and 65). -/
def Obligations.FabricLinks : Prop :=
  (∀ (l : Link) (f : Frame) (fseq : BitVec 18) (p : Packet) (h : PktHdr) (ident : BitVec 18) (live : Bool)
    (go : Option Bool) (ep : BitVec 16) (body : List Syl) (st : State),
    let s := st.sys
    let x := s.link l
    let out (i : Instr) (t : Sys) : Prop := exec i st = .next { st with sys := t }
    (x.st ≠ 2 → out (.frame l f) s) ∧
    (x.st = 2 →
      let p := packetOf l f.packet
      let c := (x.credits[f.credVc]?).getD 0
      let y : CqLink := { x with rxSeq := x.rxSeq + 1, credits := x.credits.set f.credVc (c + f.credit),
                                 owe := x.owe.set p.vc ((x.owe[p.vc]?).getD 0 + 1) }
      let y := sendReady y
      let s' := s.setLink l y
      let bad : Prop := f.fecBad = true ∨ crc32c f.packet ≠ f.crc ∨ (2 ≤ p.vc ∧ typeOk p.vc p.typ = false)
      (bad → out (.frame l f) (s.setLink l { x with replay := min 4095 (x.replay + 1), telReplay := x.telReplay + 1 })) ∧
      (¬ bad → f.fseq ≠ x.rxSeq → out (.frame l f) s) ∧
      (¬ bad → f.fseq = x.rxSeq →
        (p.dest.toNat ≠ s.modid → out (.frame l f) s') ∧
        (p.dest.toNat = s.modid →
          (typeOk p.vc p.typ = false → out (.frame l f) ((s'.sawEpoch (hdrOf p)).nak (hdrOf p) 514)) ∧
          (typeOk p.vc p.typ = true → p.vc = 2 → p.typ = 0o23 → out (.frame l f) (s'.pack p)) ∧
          (typeOk p.vc p.typ = true → p.vc ≠ 2 ∨ p.typ ≠ 0o23 →
            let rx := if p.last then y.rx.filter (fun q => !(q.src = p.src && q.tag = p.tag)) else y.rx ++ [p]
            out (.frame l f) (s'.setLink l { y with rx := rx }))))) ∧
    (x.st ≠ 2 ∨ (∀ g ∈ x.sent, g.fseq ≠ fseq) → out (.replayRequest l fseq) s) ∧
    (x.st = 2 → (∃ g ∈ x.sent, g.fseq = fseq) →
      out (.replayRequest l fseq) (s.setLink l { x with resent := x.sent.dropWhile (fun g => g.fseq != fseq), acked := some fseq })) ∧
    (∀ i ∈ [Instr.linkTraining l go, .trainingRetry l go],
      (s.img.links.getLsbD l = false ∨ 6 ∉ st.boot.steps ∨ st.boot.halted = true ∨ 2 ≤ x.st → out i s) ∧
      (s.img.links.getLsbD l = true → 6 ∈ st.boot.steps → st.boot.halted = false → x.st = 0 ∨ x.st = 1 →
        (go = none → out i (s.setLink l { x with st := 1 })) ∧
        (go = some true → out i ((s.setLink l { x with st := 2 }).cameUp l)) ∧
        (go = some false → out i (s.setLink l { x with st := 0 })))) ∧
    (x.st ≠ 2 → x.st ≠ 3 → out (.retrain l go) s) ∧
    (x.st = 2 ∨ x.st = 3 →
      let n := min 255 (x.retrains + 1)
      (go = none → out (.retrain l go) ((s.setLink l { x with st := 3 }).reroute l)) ∧
      (go = some true → out (.retrain l go)
        ((s.setLink l { x with st := 2, retrains := n, fails := 0, resent := x.unacked }).cameUp l)) ∧
      (go = some false → out (.retrain l go) ((s.setLink l
        { x with st := if 2 ≤ x.fails then 4 else 3, retrains := n, fails := x.fails + 1 }).reroute l))) ∧
    (p.dest.toNat = s.modid → out (.packetForward p) s) ∧
    (∀ t, p.dest.toNat ≠ s.modid → s.emit p = (t, true) → out (.packetForward p) t) ∧
    (∀ t, p.dest.toNat ≠ s.modid → s.emit p = (t, false) → out (.packetForward p) (s.nak (hdrOf p) 515)) ∧
    (∀ t, s.rxCheck h false = (t, false) →
      out (.epochPacket h ident live ep) t ∧ out (.echo h body) t ∧ out (.nak h) t) ∧
    ∀ t, s.rxCheck h false = (t, true) →
      out (.echo h body) (t.sendOff h.src.toNat 3 0o31 h.part h.status h.tag body) ∧
      (t.peerOf ident.toNat = none → out (.epochPacket h ident live ep) t) ∧
      (∀ q, t.peerOf ident.toNat = some q → q.slot.isSome = true ∨ newer ep (t.epochOf ident.toNat).2 = false →
        out (.epochPacket h ident live ep) t) ∧
      (∀ q, t.peerOf ident.toNat = some q → q.slot = none → newer ep (t.epochOf ident.toNat).2 = true →
        out (.epochPacket h ident live ep) (t.recordEpoch ident.toNat live ep)) ∧
      let u := if h.status = 511 then t.actStale else t
      let k := h.tag.toNat / 512
      (∀ q n, u.nakPosting h.tag = some (q, n) → out (.nak h) (u.fail q n h.status 31 h.src.toNat).balance) ∧
      (∀ q, u.nakPosting h.tag = none → (u.core k).remote = some q →
        (q.tag = h.tag → (u.running k).isSome = true → out (.nak h) (u.cpEnd k q none)) ∧
        (q.tag ≠ h.tag ∨ u.running k = none → out (.nak h) u)) ∧
      (u.nakPosting h.tag = none → (u.core k).remote = none →
        (h.tag = psealTag h.part → out (.nak h) (u.sealAnswer h.part false)) ∧
        (h.tag ≠ psealTag h.part → out (.nak h) u))) ∧
  (∀ (x : CqLink) (v : Nat), let q := x.egress.filter (fun p => p.vc = v)
    let c := (x.credits[v]?).getD 0
    (sendReady x).egress.filter (fun p => p.vc = v) = q.drop c ∧ ((sendReady x).credits[v]?).getD 0 = c - q.length) ∧
  (∀ (x : CqLink) (p : Packet), x.egress = [p] → 0 < (x.credits[p.vc]?).getD 0 →
    let f : Frame := { fseq := x.txSeq, packet := packetSyls p, credVc := x.oweVc,
                       credit := min 65535 ((x.owe[x.oweVc]?).getD 0), crc := crc32c (packetSyls p), fecBad := false }
    let kept := x.sent ++ [f]
    sendReady x = { x with egress := [], txSeq := x.txSeq + 1, credits := x.credits.set p.vc ((x.credits[p.vc]?).getD 0 - 1),
                           owe := x.owe.set f.credVc ((x.owe[f.credVc]?).getD 0 - f.credit),
                           sent := kept.drop (kept.length - 512) }) ∧
  (∀ (p : Packet), p.vc < 4 → p.typ < 64 → p.part < 1024 → p.status < 1024 → p.seg < 8 → p.body.length ≤ 56 →
    packetOf p.link (packetSyls p) = p) ∧
  (∀ (s : Sys) (p : Packet),
    let path := if p.seg = 0 then none else s.fab.paths.find? (fun x => x.1 = p.src.toNat && x.2.1 = p.tag)
    let by_ (l : Nat) : Sys :=
      let t := s.fab.paths.filter (fun x => !(x.1 = p.src.toNat && x.2.1 = p.tag))
      Sys.queueOn l p { s with fab := { s.fab with paths := if p.last then t else (p.src.toNat, p.tag, l) :: t } }
    (∀ x, path = some x → s.emit p = (by_ x.2.2, true)) ∧
    (path = none →
      (s.routeOf p.dest.toNat = none ∨ (∃ r, s.routeOf p.dest.toNat = some r ∧ r.v = false) → s.emit p =
        if 2 ≤ p.vc then ({ s with fab := { s.fab with held := s.fab.held ++ [p] } }, true) else (s, false)) ∧
      ∀ r, s.routeOf p.dest.toNat = some r → r.v = true →
        ((s.link r.prim).st = 2 → s.emit p = (by_ r.prim, true)) ∧
        ((s.link r.prim).st ≠ 2 → r.av = true → (s.link r.alt).st = 2 → s.emit p = (by_ r.alt, true)) ∧
        ((s.link r.prim).st ≠ 2 → r.av = false ∨ (s.link r.alt).st ≠ 2 →
          s.emit p = if 2 ≤ p.vc then (by_ r.prim, true) else (s, false)))) ∧
  ∀ (h : PktHdr) (req : Bool) (s : Sys),
    let id := h.src.toNat
    let r := s.epochOf id
    let old : Prop := newer r.2 h.sepoch = true ∨ (r.2 = h.sepoch ∧ r.1 = false)
    (s.peerOf id = none → s.rxCheck h req = if req then (s.nak h 513, false) else (s, true)) ∧
    ∀ p, s.peerOf id = some p →
      (p.companion = true → s.rxCheck h req = (s, true)) ∧
      (p.companion = false →
        (s.ownLive = false → s.rxCheck h req =
          (let t := if newer h.sepoch r.2 then (if r.1 then s else s.peerUp id).setEpoch id (true, h.sepoch) else s
           if req = true then (t.nak h 510, false) else (t, true))) ∧
        (s.ownLive = true →
          (old → req = true → s.rxCheck h req = (s.nak h 511, false)) ∧
          (old → req = false → s.rxCheck h req =
            (s.setLink h.link { s.link h.link with stale := min 4095 ((s.link h.link).stale + 1), telStale := (s.link h.link).telStale + 1 }, false)) ∧
          (¬ old → newer h.sepoch r.2 = false → s.rxCheck h req =
            if req = true ∧ h.depoch ≠ s.port.epoch then (s.nak h 512, false) else (s, true)) ∧
          (¬ old → newer h.sepoch r.2 = true → s.rxCheck h req =
            (let t := (if r.1 then s else s.peerUp id).setEpoch id (true, h.sepoch)
             if req = true ∧ h.depoch ≠ s.port.epoch then (t.nak h 512, false) else (t, true)))))

/-- R566-R571.
Where the spec leaves a choice, the clauses follow the model's own (log entry 64). -/
def Obligations.PairedPartitions : Prop :=
  ∀ (h : PktHdr) (sq : DWord) (data : List Syl) (poison : Bool) (off len : Nat) (crc : BitVec 32) (buf : Bool) (p : PartId)
    (st : State) (t : Sys),
    let s := st.sys
    let out (i : Instr) (t : Sys) : Prop := exec i st = .next { st with sys := t }
    let reqs := [Instr.pstrm h sq data, .prd h sq, .pckd h off data, .pseal h sq len crc buf]
    (s.rxCheck h true = (t, false) → ∀ i ∈ reqs, out i (if i = .pseal h sq len crc buf then t.drainAll else t)) ∧
    (s.rxCheck h false = (t, false) ∨ (s.rxCheck h false = (t, true) ∧ (t.standbyOf h = none ∨ poison = true)) →
      out (.prdata h sq data poison) t) ∧
    (s.rxCheck h true = (t, true) → t.standbyOf h = none → ∀ i ∈ [Instr.pstrm h sq data, .pckd h off data, .pseal h sq len crc buf],
      out i (if i = .pseal h sq len crc buf then t.drainAll else t)) ∧
    (∀ x, s.rxCheck h true = (t, true) → t.standbyOf h = some x →
      out (.pstrm h sq data) (if h.poison then t else t.takeStream h sq.toNat data)) ∧
    (∀ x, s.rxCheck h false = (t, true) → t.standbyOf h = some x → poison = false →
      out (.prdata h sq data poison) (t.takeStream h sq.toNat data)) ∧
    (let u := t.pairSt h.part
     let n := sq.toNat
     let q := if h.link.val / 6 < 2 then 1 else 2
     let up := t.j0up || t.j1up
     let f := if up then (t.deviceWrite q [((dwordOf (data.take 8)).toNat, data)]).flushIssued q else (0, t)
     let r : StrRec := { sseq := n, quad := q, data := data, wrote := up, need0 := t.j0up, need1 := t.j1up, batch := f.1 }
     (u.sseq ≠ 0 ∨ u.recs ≠ [] →
       (n ≤ u.sseq ∨ (∃ r ∈ u.recs, r.sseq = n) → t.takeStream h n data = t) ∧
       (u.sseq < n → (∀ r ∈ u.recs, r.sseq < n) →
         let hi := u.recs.foldl (fun m r => max m r.sseq) u.sseq
         t.takeStream h n data = ((List.range (n - hi - 1)).map (fun i => hi + 1 + i)).foldl
           (fun (s : Sys) m => s.sendOff h.src.toNat 0 0o05 h.part 0 (prdTag h.part) (sylsD (BitVec.ofNat 72 m)))
           (f.2.setPair h.part { u with recs := u.recs ++ [r] }))) ∧
     (u.sseq = 0 → u.recs = [] → 1 ≤ n →
       t.takeStream h n data = f.2.setPair h.part { u with sseq := n - 1, recs := [r] })) ∧
    (∀ x q j, s.rxCheck h true = (t, true) → t.streaming h.part = some x → t.streamRec h.part sq.toNat = some (q, j) →
      (x.peer ≠ h.src.toNat → out (.prd h sq) t) ∧
      (x.peer = h.src.toNat →
        let a := t.recAddr q j.pos
        let v := t.fetchFor 4 a 128
        out (.prd h sq) (v.sendMsg x.peer 2 0o24 h.part 0 h.tag (v.poisonedSpan a 128)
          (sylsD (BitVec.ofNat 72 sq.toNat) ++ v.rd a 128)).1)) ∧
    (s.rxCheck h true = (t, true) → t.streaming h.part = none ∨ t.streamRec h.part sq.toNat = none → out (.prd h sq) t) ∧
    (s.streaming p = none ∨ (s.pairSt p).pend.isSome = true → out (.checkpoint p) s) ∧
    (∀ x, s.streaming p = some x → (s.pairSt p).pend = none →
      let u := s.pairSt p
      let b := u.hasSeal && !u.buf
      let chg := if b then u.chgB else u.chgA
      let full := if b then u.fullB else u.fullA
      let lines := (regionLines 0 x.regions).filter (fun l => !full || chg.contains (l.2 / 4096))
      let fr := lines.foldl (fun fr l => ninsert fr (l.2 / 4096)) []
      let s0 := s.setPair p { u with pend := some (b, fr), chgA := if b then u.chgA else [], chgB := if b then [] else u.chgB }
      let s1 := lines.foldl (fun (s : Sys) l =>
        let s := s.fetchFor 4 l.2 64
        (s.sendMsg x.peer 0 0o03 p 0 (pckdTag p) (s.poisonedSpan l.2 64) (sylsD (BitVec.ofNat 72 l.1) ++ s.rd l.2 64)).1) s0
      let dat := lines.flatMap (fun l => s1.rd l.2 64)
      let r := s1.sendMsg x.peer 0 0o04 p 0 (psealTag p) false (sylsD (BitVec.ofNat 72 u.top) ++
        wordsToSyls [BitVec.ofNat 36 dat.length, mkw 36 [(31, (crc32c dat).toNat), (35, b.toNat)]])
      (r.2 = true → out (.checkpoint p) r.1) ∧ (r.2 = false → out (.checkpoint p) (r.1.sealAnswer p false))) ∧
    (∀ x, s.rxCheck h true = (t, true) → t.standbyOf h = some x →
      let u := t.pairSt h.part
      let dat := u.got.flatMap (fun l => l.2.1)
      let good : Prop := dat.length = len ∧ crc32c dat = crc ∧ (u.hasSeal = true → buf ≠ u.buf)
      let base := if buf then x.bufB else x.bufA
      let lose (b : Bool) (s : Sys) : Sys :=
        let a := (if b then x.bufB else x.bufA) + off
        if (u.hasSeal = true ∧ u.buf = b) ∨ s.spanLocked a data.length = true then s else s.wrFree a data.length
      out (.pckd h off data) (Sys.setPair h.part { u with got := tset u.got off (data, h.poison) } (lose true (lose false t))) ∧
      (good → (∃ l ∈ u.got, t.spanLocked (base + l.1) l.2.1.length = true) →
        out (.pseal h sq len crc buf) (t.setPair h.part
          { u with late := some { hdr := h, s0 := sq.toNat, len := len, crc := crc, buf := buf } }).drainAll) ∧
      (good → (∀ l ∈ u.got, t.spanLocked (base + l.1) l.2.1.length = false) →
        out (.pseal h sq len crc buf) (((u.got.foldl
          (fun (s : Sys) l => s.remoteWrite (base + l.1) l.2.1 l.2.2) t).setPair h.part
          { u with got := [], late := none, hasSeal := true, buf := buf, s0 := sq.toNat, sealed := u.sealed + 1,
                   st := if 2 ≤ u.sealed + 1 then 1 else u.st }).sendOff h.src.toNat 2 0o23 h.part 0 h.tag []).drainAll) ∧
      (¬ good → out (.pseal h sq len crc buf)
        ((t.setPair h.part { u with got := [], late := none }).sendOff h.src.toNat 2 0o23 h.part 532 h.tag []).drainAll)) ∧
    (s.pairOf p = none → out (.failover p) s) ∧
    ∀ x, s.pairOf p = some x →
      let u := s.pairSt p
      let s' : Sys := { s with fab := { s.fab with links := s.fab.links.map (fun l =>
        (l.1, { l.2 with rx := l.2.rx.filter (fun q => q.src.toNat != x.peer) })) } }
      (x.standby = false ∨ u.lost = false ∨ u.st = 3 → out (.failover p) s) ∧
      (x.standby = true → u.lost = true → u.st ≠ 3 →
        ((∃ r ∈ u.recs, strDurable r = false) → out (.failover p) s') ∧
        ((∀ r ∈ u.recs, strDurable r = true) → out (.failover p)
          ((s'.setPair p { u with st := 3, got := [] }).notice p 5 530 0 (mkw 36 [(17, x.peer), (35, u.buf.toNat)]))))

/-- R575, R601-R603, R632, R633; what the resets keep of the fuses and pins is also in NOTES.md.
Where the spec leaves a choice, the clauses follow the model's own (log entries 51, 67 and 99). -/
def Obligations.ModuleResets : Prop :=
  ∀ st : State,
    let t := st.cleared
    let start (s : State) : State :=
      if s.pwr.rstLow = true ∨ s.pwr.ttrip = true ∨ s.pwr.pwrgood = false then s
      else { s with boot := { s.boot with steps := [1], sstat := 401 } }
    (let s0 := st.sys
     t.sys = { host := s0.host, free := t.sys.free, jdev0 := s0.jdev0, jdev1 := s0.jdev1, tansy := { retired := s0.tansy.retired } } ∧ t.boot = {} ∧
     t.fuses = st.fuses ∧ t.configs = st.configs ∧ t.pending = st.pending ∧ t.master = {} ∧
     t.pwr = { steps := st.pwr.steps, applied := st.pwr.steps, pwrgood := st.pwr.pwrgood, rstLow := st.pwr.rstLow,
               perst := st.pwr.perst, bscan := st.pwr.bscan, ttrip := st.pwr.ttrip, clocksStopped := st.pwr.clocksStopped } ∧
     (s0.pf.rwrange = none → t.flash = st.flash ∧ t.sys.free = s0.free) ∧
     ∀ a n x, s0.pf.rwrange = some (a, n) → Flash.wf st.flash = true → x < a ∨ a + n ≤ x →
       tget 0xFF t.flash x = tget 0xFF st.flash x) ∧
    (st.pwr.pwrgood = true → exec .powerOn st = .next st) ∧
    (st.pwr.pwrgood = false → exec .powerOn st = .next (start { t with
      pwr := { t.pwr with pwrgood := true, ttrip := false, clocksStopped := false } })) ∧
    exec .powerDown st = .next { t with pwr :=
      { t.pwr with pwrgood := false, ttrip := false, clocksStopped := false, clkloss := st.pwr.clkloss, rail := st.pwr.rail } } ∧
    (st.pwr.pwrgood = true → exec (.moduleReset .rstL) st = .next { t with pwr := { t.pwr with rstLow := true } }) ∧
    (st.pwr.pwrgood = false → exec (.moduleReset .rstL) st = .next { st with pwr := { st.pwr with rstLow := true } }) ∧
    (∀ w, st.boot.steps = [] ∨ tansyRuns w = true → exec (.moduleReset (.tansy w)) st = .next st) ∧
    (∀ w, st.boot.steps ≠ [] → tansyRuns w = false → exec (.moduleReset (.tansy w)) st = .next (start t)) ∧
    (st.pwr.rstLow = true → exec .resetRelease st = .next (start { st with pwr := { st.pwr with rstLow := false } })) ∧
    (st.pwr.rstLow = false → exec .resetRelease st = .next st) ∧
    (st.boot.steps = [] → exec .watchdogExpiry st = .next st) ∧
    (st.boot.steps ≠ [] → exec .watchdogExpiry st = .next (start t))

/-- R579-R598.
Where the spec leaves a choice, the clauses follow the model's own (log entries 26 and 66). -/
def Obligations.StartUpSteps : Prop :=
  (∀ (st : State) (sfdp : Sfdp) (ok : BitVec 8) (ms : Nat) (a b j0 j1 : Bool) (t : ImageTables) (div : List (Nat × Nat)),
    let may (n : Nat) (after : List Nat) : Prop :=
      st.pwr.pwrgood = true ∧ st.boot.halted = false ∧ n ∉ st.boot.steps ∧ ∀ k ∈ after, k ∈ st.boot.steps
    let rows : List (Instr × Nat × List Nat × State) :=
      [(.laneCalibration, 6, [5], (st.stepDone 6).startTraining),
       (.partitionAutostart, 10, [9], State.stepDone 10 { st with sys := st.sys.autoStart }),
       (.readyReport ms, 11, [10],
         (let u := st.stepDone 11
          { u with boot := { u.boot with readyMs := min 262143 ms }, sys := { st.sys with pf := { st.sys.pf with ready := true } } })),
       (.custodyTimeout, 11, [8], st.halt 413),
       (.coreRelease, 8, [6, 7], State.stepDone 8
         { st with sys := [0, 3, 6, 9].foldl Sys.releaseCustody ((List.range 12).foldl Sys.releaseCluster st.sys) }),
       (.custodyStart j0 j1, 9, [8],
         (let x := [1, 2, 4, 5, 7, 8, 10, 11].foldl Sys.createHousekeeping st.sys
          let x := if j0 then x.deviceOnline false else x
          let x := if j1 then x.deviceOnline true else x
          State.stepDone 9 { st with sys := x.rejoin, pwr := { st.pwr with j0Low := !j0, j1Low := !j1 } })),
       (.sfdpDiscovery sfdp, 2, [1],
         (let u := st.stepDone 2
          if sfdp.answers = true ∧ sfdp.needed = true then
            { u with boot := { u.boot with mode := if sfdp.octal then 1 else if sfdp.quad then 2 else 3 } }
          else State.halt 411 { u with boot := { u.boot with ares := 430, bres := 430 } })),
       (.zeroFill ok ms, 3, [1],
         (let mc (m : Nat) : Mc :=
            if ok.getLsbD m then { up := true, filld := true, fillms := min 65535 ms, inLap := true } else { fail := true }
          State.stepDone 3 { st with
            sys := { st.sys with mem := [], poison := [], flips := [], dirs := [], keyc := [], mcs := (List.range 8).map (fun m => (m, mc m)) } })),
       (.imageCheck a b ms, 5, [2],
         (let u := st.stepDone 5
          let ra := st.copyCheck false a
          let rb := st.copyCheck true b
          State.choose { u with boot := { u.boot with ares := ra.1, bres := rb.1, gena := ra.2, genb := rb.2,
                                                      choseMs := min 262143 ms } }))]
    (∀ r ∈ rows, (may r.2.1 r.2.2.1 → exec r.1 st = .next r.2.2.2) ∧ (¬ may r.2.1 r.2.2.1 → exec r.1 st = .next st)) ∧
    (¬ may 7 [3, 5] ∨ st.boot.cv = false → exec (.tableLoad t div) st = .next st) ∧
    (may 7 [3, 5] → st.boot.cv = true →
      let turned (c : Nat) : Out := .next (State.choose { st with
        boot := if st.boot.chosen then { st.boot with bres := c } else { st.boot with ares := c } })
      let t0 := st.configOf t
      (templatesOk t0 = false → exec (.tableLoad t div) st = turned 435) ∧
      (templatesOk t0 = true → st.patch = none → exec (.tableLoad t div) st = turned 434) ∧
      ∀ p, templatesOk t0 = true → st.patch = some p →
        let t' := st.flashTables t0
        ∃ u, exec (.tableLoad t div) st = .next u ∧ u.sys.tabs = loadTables t' p st.sealKeys.1 ∧
          (∀ t2, u.configOf t2 = t0) ∧ 7 ∈ u.boot.steps ∧ u.boot.rej = rejected t' (loadParts t' (sortEntries t'.parts) []) st.sealKeys.2 ∧
          (∀ n < 108, (u.sys.slot n).patch = Patch.ofOctets p) ∧ (∀ n c, div = [(n, c)] → (u.sys.slot n).divFails = c) ∧
          (u.boot.halted = true ↔ ∃ c ∈ custodySpans t', ∃ k ∈ spanStripes c.1 c.2, (st.sys.mc (k % 8)).fail = true)) ∧
    (st.pwr.perst = true ∨ 1 ∉ st.boot.steps → exec .hostLinkTraining st = .next st) ∧
    (st.pwr.perst = false → 1 ∈ st.boot.steps → exec .hostLinkTraining st = .next
      (State.stepDone 4 { st with sys := { st.sys with pf := { st.sys.pf with linkUp := true } } }))) ∧
  (∀ (s : State) (l : Nat), l < 24 → (s.startTraining.sys.link l).st =
    if 6 ∈ s.boot.steps ∧ s.boot.halted = false ∧ s.sys.img.links.getLsbD l = true ∧ (s.sys.link l).st = 0 then 1 else (s.sys.link l).st) ∧
  (∀ (n k : Nat) (s : State),
    let u := s.stepDone n
    (k ∈ u.boot.steps ↔ k = n ∨ k ∈ s.boot.steps) ∧ u = { s with boot := { s.boot with steps := u.boot.steps, sstat := u.boot.sstat } } ∧
    (s.boot.halted = true → u.boot.sstat = s.boot.sstat) ∧
    (s.boot.halted = false → 2 ∉ u.boot.steps → u.boot.sstat = 401) ∧
    (s.boot.halted = false → 2 ∈ u.boot.steps → 3 ∉ u.boot.steps ∨ 5 ∉ u.boot.steps → u.boot.sstat = 402) ∧
    (s.boot.halted = false → 2 ∈ u.boot.steps → 3 ∈ u.boot.steps → 5 ∈ u.boot.steps →
      (6 ∉ u.boot.steps ∨ 7 ∉ u.boot.steps → u.boot.sstat = 403) ∧
      (6 ∈ u.boot.steps → 7 ∈ u.boot.steps → u.boot.sstat = if 9 ∉ u.boot.steps then 404 else if 11 ∉ u.boot.steps then 405 else 400))) ∧
  (∀ s : State,
    let b := s.boot
    let take (c : Bool) (w : Nat) : State := { s with boot := { b with chosen := c, cv := true, warn := b.warn ||| w } }
    (b.ares = 0 → b.bres = 0 → b.genb < b.gena → s.choose = take false 0) ∧
    (b.ares = 0 → b.bres = 0 → b.gena < b.genb → s.choose = take true 0) ∧
    (b.ares = 0 → b.bres = 0 → b.gena = b.genb → s.choose =
      if s.digest false (s.header false) = s.digest true (s.header true) then take false 0 else s.halt 412) ∧
    (b.ares = 0 → b.bres ≠ 0 → s.choose = take false 1) ∧
    (b.ares ≠ 0 → b.bres = 0 → s.choose = take true 1) ∧
    (b.ares ≠ 0 → b.bres ≠ 0 → s.choose = State.halt 411 { s with boot := { b with cv := false, chosen := false } })) ∧
  (∀ (code : Nat) (s : State),
    let u := s.halt code
    u.boot = { s.boot with halted := true, sstat := code } ∧ u.sys.cores = [] ∧ u.sys.fab.links = [] ∧ u.sys.port.role = 3 ∧
    (∀ x ∈ u.sys.tansy.slots, x.2.st = .off ∨ x.2.st = .retired) ∧
    u.sys.pf.rwopen = true ∧ u.sys.pf.ready = false ∧ u.sys.mem = s.sys.mem ∧ u.pwr = s.pwr ∧ u.flash = s.flash) ∧
  (∀ (s : State) (b sec : Bool),
    let h := s.header b
    (h.check ≠ 0 → s.copyCheck b sec = (h.check, 0)) ∧
    (h.check = 0 → s.copyCheck b sec =
      (if s.signedOk b h = false then 433 else if sec = false then 435 else 0, h.gen))) ∧
  (∀ us : List Nat, ∀ i < 8, i < us.length → i ∈ us → (i, i) ∈ assignSlots us) ∧
  ∀ i < 8, (i, 8) ∈ assignSlots ((List.range 9).filter (fun n => n ≠ i))

/-- R604-R624, R628-R639; the time that TELEMETRY_SAMPLE counts for a lap is the model's (NOTES.md).
Where the spec leaves a choice, the clauses follow the model's own (log entries 68 and 69). -/
def Obligations.BackgroundAndPower : Prop :=
  (∀ (m : StackId) (ch : Fin 32) (ok : Bool) (e : Ecc) (st : State),
    let s := st.sys
    let x := s.mc m
    let out (i : Instr) (t : Sys) : Prop := exec i st = .next { st with sys := t }
    let alive : Prop := x.up = true ∧ x.fail = false
    ((∃ n, n < 8 ∧ (s.mc n).up = true ∧ (s.mc n).fail = false ∧ (s.mc n).atEnd = false) →
      (¬ alive ∨ x.inLap = false ∨ x.atEnd = true → out (.yarrowRead m e) s) ∧
      (alive → x.inLap = true → x.atEnd = false →
        let a := stackAddr m x.ptr
        let t := ((s.addFlips e).readCheck 5 (2 * (a / 64))).readCheck 5 (2 * (a / 64) + 1)
        let t := t.setMc m { t.mc m with ptr := x.ptr + 64, atEnd := decide (0x800000000 ≤ x.ptr + 64), telLines := (t.mc m).telLines + 1 }
        ((∃ n, n < 8 ∧ (t.mc n).up = true ∧ (t.mc n).fail = false ∧ (t.mc n).atEnd = false) → out (.yarrowRead m e) t))) ∧
    (∀ i ∈ [(Instr.channelRetraining m ch ok, 0), (.forcedRetraining m ch ok, 1)],
      (¬ alive ∨ ch.val ∈ x.failed → out i.1 s) ∧
      (alive → ch.val ∉ x.failed → out i.1 (s.setMc m
        { x with failed := if ok then x.failed else ninsert x.failed ch, telRetr := x.telRetr + 1,
                 telForced := x.telForced + i.2 }))) ∧
    (¬ alive ∨ ch.val ∉ x.failed → out (.retrainingRetry m ch ok) s) ∧
    (alive → ch.val ∈ x.failed →
      let t := s.setMc m { x with failed := nerase x.failed ch, telRetr := x.telRetr + 1 }
      out (.retrainingRetry m ch ok) (if ok then t else t.stackLoss m))) ∧
  (∀ st : State, exec .lapAlarm st = .next { st with
    pwr := { st.pwr with ywAlarm := true, lapMs := max st.pwr.lapMs st.sys.img.lapThr }, sys := st.sys.custodyNotice 0 3 }) ∧
  (∀ (c d : Cluster) (slow tj life : Nat) (st : State),
    let p := st.pwr
    let n := tget 0 p.steps c
    ∃ q : Pwr, exec (.ageingMeasurement c slow tj life) st = .next { st with pwr := q } ∧
      q.slow = tset p.slow c (min 1023 slow) ∧ q.tjavg = min 255 tj ∧ q.lifemo = min 4095 life ∧ q.applied = p.applied ∧
      (∀ t, n < 7 → st.sys.img.ageSteps[n]? = some t → t ≤ slow → q.steps = tset p.steps c (n + 1)) ∧
      (∀ t, n < 7 → st.sys.img.ageSteps[n]? = some t → slow < t → q.steps = p.steps) ∧
      (7 ≤ n → q.steps = p.steps) ∧ q.ceiling d = 4600 - 25 * tget 0 q.steps d ∧
      exec (.ceilingLowering c) st = .next { st with pwr := { p with applied := tset p.applied c n } }) ∧
  (∀ (w : BitVec 12) (qd : Quad) (tj : Nat) (st : State),
    let p := st.pwr
    let put (q : Pwr) : Out := .next { st with pwr := q }
    let n := tget 0 p.cooling qd
    let hot : Prop := ∃ c, 3 * qd.val ≤ c ∧ c < 3 * qd.val + 3 ∧ 1000 < p.clock st.sys.nominalClock c
    let high : Prop := ∃ c : Cluster, 1000 < p.clock st.sys.nominalClock c
    (∀ c, 1000 ≤ p.clock st.sys.nominalClock c) ∧
    (950 < w.toNat → high → exec (.powerSample w) st =
      put { p with pkgw := w, down := p.down + 1, plim := true, throt := min 4095 (p.throt + 1) }) ∧
    (950 < w.toNat → ¬ high → exec (.powerSample w) st = put { p with pkgw := w, plim := true }) ∧
    (w.toNat ≤ 950 → exec (.powerSample w) st = put { p with pkgw := w }) ∧
    (p.pkgw.toNat < 922 → p.down ≠ 0 → exec .clockRaise st = put { p with down := p.down - 1, applied := p.steps }) ∧
    (922 ≤ p.pkgw.toNat ∨ p.down = 0 → exec .clockRaise st = .next st) ∧
    (100 ≤ tj → hot → exec (.thermalStep qd tj) st =
      put { p with twarn := true, cooling := tset p.cooling qd (n + 1), throt := min 4095 (p.throt + 1) }) ∧
    (100 ≤ tj → ¬ hot → exec (.thermalStep qd tj) st = put { p with twarn := true }) ∧
    (95 < tj → tj < 100 → exec (.thermalStep qd tj) st = .next st) ∧
    (tj ≤ 95 → n ≠ 0 → exec (.thermalStep qd tj) st =
      put { p with cooling := tset p.cooling qd (n - 1), applied := p.steps }) ∧
    (tj ≤ 95 → n = 0 → exec (.thermalStep qd tj) st = .next st) ∧
    (let x := st.sys
     let port : Port := { x.port with role := 3, joining := false, out := [] }
     let y : Sys := { x with cores := [], camp := [], bus := [], dmas := [], dirs := [], port := port }
     exec .thermalTrip st = .next { st with pwr := { p with ttrip := true, clocksStopped := true },
                                            sys := { y with fab := { x.fab with links := [] }, pf := { x.pf with linkUp := false } } }) ∧
    (let x := lostState st.sys.free
     let mem := x.sys.mem.foldl (fun m c => mset m c.1 c.2) []
     let pwr (clk rl : Bool) : Pwr :=
       { x.pwr with steps := p.steps, applied := p.steps.map (fun c => (c.1, min c.2 (tget 0 x.pwr.applied c.1))),
                    pwrgood := p.pwrgood, rstLow := p.rstLow, perst := p.perst, clkloss := clk, rail := rl }
     let lost (q : Pwr) : Out := .next
       { x with sys := { x.sys with mem := mem, host := st.sys.host, jdev0 := st.sys.jdev0, jdev1 := st.sys.jdev1, free := st.sys.free + 1,
                                    tansy := { x.sys.tansy with retired := st.sys.tansy.retired } },
                fuses := st.fuses, flash := st.flash, configs := st.configs, pending := st.pending, pwr := q }
     (st.sys.pf.rwrange = none → exec .clockLoss st = lost (pwr true p.rail)) ∧
     (st.sys.pf.rwrange = none → p.pwrgood = true → exec .railFault st = lost (pwr p.clkloss true)) ∧
     (p.pwrgood = false → exec .railFault st = .next st)) ∧
    (st.boot.steps = [] ∨ p.clocksStopped = true → exec .telemetrySample st = .next st) ∧
    (st.boot.steps ≠ [] → p.clocksStopped = false →
      let h := (p.tmHead + 1) % 2 ^ 36
      ∃ x, exec .telemetrySample st = .next { st with
        pwr := { p with tmHead := h, lapMs := min 262143 (p.lapMs + 1), ring := tset p.ring (h % 8) x },
        sys := { st.sys with free := st.sys.free + 4096 } } ∧
        counterOf x 0 = st.sys.timeUs % 2 ^ 36 ∧ counterOf x 16 = st.sys.tansy.divReloads % 2 ^ 36 ∧
        counterOf x 17 = st.sys.tansy.divFailed % 2 ^ 36 ∧ counterOf x 5 = p.pkgw.toNat ∧ counterOf x 14 = 0 ∧ counterOf x 4000 = 0)) ∧
  ∀ (a : BitVec 7) (off value : Nat) (st : State),
    let p := st.pwr
    let o := off % 2 ^ 20
    let on : Prop := 1 ∈ st.boot.steps
    let read (v : Nat) (s : Sys) : Out := .next { st with pwr := { p with i3cData := v }, sys := s }
    (∀ i ∈ [(Instr.bypass, 0), (.samplePreload, 1), (.extest, 2), (.idcode, 3),
      (.lanetest, 4)], exec i.1 st = .next { st with pwr := { p with bscan := i.2 } } ∧
      ({ p with bscan := i.2 } : Pwr).bscanActs = (if (i.2 = 2 ∨ i.2 = 4) ∧ p.rstLow = false then 0 else i.2)) ∧
    (∀ i ∈ [Instr.setdasa a, .entdaa a],
      (on → p.i3cAddr = none → exec i st = .next { st with pwr := { p with i3cAddr := some a } }) ∧
      (¬ on ∨ p.i3cAddr.isSome = true → exec i st = .next st)) ∧
    (¬ on → exec (.i3cRead off) st = .next st ∧ exec (.i3cWrite off value) st = .next st) ∧
    (on → i3cReach o false = false → exec (.i3cRead off) st = read 0 st.sys) ∧
    (on → i3cReach o false = true → o % 8 ≠ 0 → exec (.i3cRead off) st = read 0 (st.sys.hostErr 1 0 o)) ∧
    (on → i3cReach o false = true → o % 8 = 0 → exec (.i3cRead off) st = read ((st.pfSlot o true).getD 0) (st.sys.i3cClears o)) ∧
    (i3cReach o true = false → exec (.i3cWrite off value) st = .next st) ∧
    (on → i3cReach o true = true → o % 8 ≠ 0 → exec (.i3cWrite off value) st = .next { st with sys := st.sys.hostErr 1 0 o }) ∧
    (on → 0x11000 ≤ o → o < 0x12000 → o % 8 = 0 → exec (.i3cWrite off value) st = .next { st with
      sys := { st.sys with pf := { st.sys.pf with buf := octsPut st.sys.pf.buf (o - 0x11000) 8 value } } }) ∧
    (on → 0x80000 ≤ o → o < 0xC0000 → o % 8 = 0 → ∃ t, exec (.i3cWrite off value) st = .next t ∧
      (t = st ∨ t = { st with sys := st.sys.hostErr 2 0 o }))

/-- R99, R114-R124, R142-R145, R151, R404, R407, R417, R421.
Where the spec leaves a choice, the clauses follow the model's own (log entries 4, 12, 77 and 82). -/
def Obligations.InstructionFrames : Prop :=
  (∀ (i : Instr) (len : Nat) (w : Word), encodeWord i = some (len, w) →
    (match i with
      | .mov _ rd rs => rd ≠ 0 ∨ rs ≠ 0
      | .shli _ d _ _ n => n.toNat < if d then 72 else 36
      | .shri _ d _ _ n => n.toNat < if d then 72 else 36
      | .sari _ d _ _ n => n.toNat < if d then 72 else 36
      | _ => True) →
    ∃ a, decodeWord a w = some i ∧ len = if isLong (parcel0 w) then 4 else 2) ∧
  (∀ (a : Issue) (w : Word) (i : Instr), decodeWord a w = some i →
    if isLong (parcel0 w) then encodeWord i = some (4, w)
    else ∃ v, encodeWord i = some (2, v) ∧ parcel0 v = parcel0 w) ∧
  (∀ (k : CoreId) (s s1 : Sys) (p : Half), Ends (fetchParcel k (s.bankOf k) (s.ctx k) (s.ctx k).pc.toNat) s p s1 →
    (isLong p = false → Ends (fetchWord k) s (p ++ (0 : Half)) s1) ∧
    (isLong p = true → ∀ q s2, Ends (fetchParcel k (s.bankOf k) (s.ctx k) ((s.ctx k).pc.toNat + 2)) s1 q s2 →
      Ends (fetchWord k) s (p ++ q) s2)) ∧
  (∀ (a : Issue) (v w : Word) (i : Instr) (st : State) (s1 : Sys), decodeWord a v = some i → a.hw = .none →
    (st.sys.closeShadow a.core).canIssue a.core = true → Ends (fetchWord a.core) (st.sys.closeShadow a.core) w s1 →
    (decodeWord a w = none → exec i st = trapBy a { cls := 1, code := 1 } st s1) ∧
    (decodeWord a w = some i → Ends (fetch a i true) (st.sys.closeShadow a.core) () s1) ∧
    ∀ j, decodeWord a w = some j → j ≠ i → exec i st = leftBy st (st.sys.closeShadow a.core)) ∧
  (∀ (k b : Nat) (x : Ctx) (st : Word) (acc va : Nat) (entry : Bool) (s s' : Sys) (r : Xl),
    Ends (xlate k b x st acc va entry) s r s' →
    s' = { s with cores := s'.cores, l3 := s'.l3, dirs := s'.dirs, dirUse := s'.dirUse, poison := s'.poison, flips := s'.flips,
                  tracker := s'.tracker, late := s'.late, keyc := s'.keyc, mem := s'.mem, mcs := s'.mcs,
                  fab := { s.fab with pairs := s'.fab.pairs }, free := s'.free } ∧
    (∀ j, let c := s.core j
      { s'.core j with tlbI := c.tlbI, tlbD := c.tlbD, tlb2 := c.tlb2, walkc := c.walkc, l1i := c.l1i, l1d := c.l1d, l2 := c.l2 } = c) ∧
    (∀ j, j ≠ k → let c := s.core j; { s'.core j with l1i := c.l1i, l1d := c.l1d, l2 := c.l2 } = c) ∧
    (s.flips = [] → ∀ y, mget s'.mem y ≠ mget s.mem y →
      (acc ≠ 3 ∧ r.pa < memSize ∧ y = s.keyAddr r.pa) ∨
      ((entry = true ∨ (acc ≠ 3 ∧ s.markOption k x st = true)) ∧
        ∃ n e base size l ups, findExt (x.world (stW st)).exts va = some (n, e) ∧ extPG e = true ∧
          ((s.walk k (if stW st then none else some x.part) (va - extVBASE e * 4096) 3 (extPBASE e * 0x100000)).1 = .ok base size l ups ∨
            ∃ t ∈ (s.core k).walkc, t.covers b (stW st) n va = true ∧
              (s.walk k (if stW st then none else some x.part) (va - extVBASE e * 4096) t.lvls t.table).1 = .ok base size l ups) ∧
          l.1 ≤ y ∧ y < l.1 + 4))) ∧
  (∀ (a : Issue) (i : Instr) (len : Nat) (s s1 : Sys), Issued a i len s s1 →
    let k := a.core.val
    let s0 := s.closeShadow k
    s1 = { s0 with cores := s1.cores, l3 := s1.l3, dirs := s1.dirs, dirUse := s1.dirUse, poison := s1.poison, flips := s1.flips,
                   tracker := s1.tracker, late := s1.late, keyc := s1.keyc, mem := s1.mem, mcs := s1.mcs,
                   fab := { s0.fab with pairs := s1.fab.pairs }, free := s1.free } ∧
    (∀ j, let c := s0.core j
      { s1.core j with tlbI := c.tlbI, tlbD := c.tlbD, tlb2 := c.tlb2, walkc := c.walkc, l1i := c.l1i, l1d := c.l1d, l2 := c.l2 } = c) ∧
    (∀ j, j ≠ k → let c := s.core j; { s1.core j with l1i := c.l1i, l1d := c.l1d, l2 := c.l2 } = c) ∧
    s1.ctx k = (s.ctx k).closeDue ∧ s0.mem = s.mem ∧
    (s0.markOption k (s0.ctx k) (s0.ctx k).status = false → s.flips = [] →
      ∀ y, mget s1.mem y ≠ mget s.mem y → s.img.ksb ≤ y ∧ y < s.img.ksb + 0x4000000)) ∧
  (∀ x : Ctx, (∀ sh, x.shadow = some sh → sh.count = 0 →
      x.closeDue = { x with status := setFld x.status 2 12 (fld sh.pend 2 12), shadow := none }) ∧
    (x.shadow = none ∨ (∃ sh, x.shadow = some sh ∧ sh.count ≠ 0) → x.closeDue = x)) ∧
  ∀ (k len : Nat) (s : Sys) (b : Nat) (x : Ctx), s.running k = some (b, x) →
    let sh := x.shadow.map (fun sh => { sh with count := sh.count - 1 })
    let left (t : Sys) (x' : Ctx) : Prop :=
      t = { s with cores := t.cores } ∧ (∀ j, j ≠ k → t.core j = s.core j) ∧
      t.core k = { s.core k with banks := tset (s.core k).banks b { x' with hold := false, shadow := sh }, lastPc := x.pc, useq := none }
    let atEnd : Prop := stLA x.status = true ∧ x.pc = x.lend
    let r := stLREG x.status
    (¬ atEnd → left (s.retire k len .seq) { x with pc := x.pc + BitVec.ofNat 36 len }) ∧
    (atEnd → x.rdG r ≠ 1 → left (s.retire k len .seq) { x.wrG r (x.rdG r - 1) with pc := x.lbeg }) ∧
    (atEnd → x.rdG r = 1 → left (s.retire k len .seq)
      { x.wrG r 0 with pc := x.pc + BitVec.ofNat 36 len, status := setFld x.status 13 18 0 }) ∧
    ∀ (a : Nat) (clr : Bool),
      (clr = false ∨ stLA x.status = false ∨ (x.lbeg.toNat ≤ a ∧ a ≤ x.lend.toNat) →
        left (s.retire k len (.jump a clr)) { x with pc := BitVec.ofNat 36 a }) ∧
      (clr = true → stLA x.status = true → a < x.lbeg.toNat ∨ x.lend.toNat < a →
        left (s.retire k len (.jump a clr)) { x with pc := BitVec.ofNat 36 a, status := setBit x.status 13 false })

/-- R398: only the home agents' commands carry an address that may not exist.
Where the spec leaves a choice, the clauses follow the model's own (log entry 6). -/
def Obligations.EveryCommandRuns : Prop :=
  ∀ (i : Instr) (s : State),
    (∀ r, exec i s ≠ .refused r) ∧ (∀ t, exec i s = .next t → t.pending = s.pending) ∧
    ∀ f, exec i s = .fault f → ∃ a, f = .noSuchAddress a ∧
      ((∃ g line e, (i = .readRequest g line e ∨ i = .ownershipRequest g line e) ∧ a = 64 * line ∧ memSize ≤ a) ∨
       (∃ line fl, i = .forward line fl ∧ a = 64 * line ∧ memSize ≤ a) ∨
       (∃ g line, i = .writeback g line ∧ a = 64 * line ∧ memSize ≤ a) ∨
       (∃ g n e, i = .uncachedRead g a n e ∧ (memSize ≤ a ∨ memSize < a + n)) ∨
       ∃ g d, (i = .uncachedWrite g a d ∨ i = .partialWrite g a d) ∧ (memSize ≤ a ∨ memSize < a + d.length))

/-- R615-R617 for the fuses; the canonical form is the model's.
Where the spec leaves a choice, the clauses follow the model's own (log entries 5 and 51). -/
def Obligations.StepKeepsInvariant : Prop :=
  ∀ s s' : State, s.Inv → step s = .next s' → s'.Inv

/-- R45, R601, R616, R628.
Where the spec leaves a choice, the clauses follow the model's own (log entries 51 and 67). -/
def Obligations.FusesOnlyBlow : Prop :=
  ∀ s s' : State, step s = .next s' →
    (∀ c, tget 0 s.pwr.steps c ≤ tget 0 s'.pwr.steps c ∧ s'.pwr.ceiling c ≤ s.pwr.ceiling c) ∧
    (∀ n ∈ s.sys.tansy.retired, n ∈ s'.sys.tansy.retired) ∧ s'.fuses = s.fuses
end

