-- ==== Sys2Proof/Laws/Issue.lean ====
section
/-! SUPPORT. An instruction that issues: its body decides the rest. -/

namespace Sys2Proof.Machine

@[simp] theorem run_pure {α : Type} (x : α) (s : Sys) : (pure x : M α).run s = .ok x s := rfl
@[simp] theorem run_throw {α : Type} (e : Stop) (s : Sys) : (throw e : M α).run s = .error e s := rfl
@[simp] theorem run_get (s : Sys) : (get : M Sys).run s = .ok s s := rfl
@[simp] theorem run_upd (f : Sys → Sys) (s : Sys) : (upd f).run s = .ok () (f s) := rfl
theorem run_bind {α β : Type} (x : M α) (f : α → M β) (s : Sys) :
    (x >>= f).run s = match x.run s with
      | .ok v s' => (f v).run s'
      | .error e s' => .error e s' := by
  simp only [bind, EStateM.bind, EStateM.run]
  split <;> rename_i h <;> simp [h]

@[simp] theorem run_ite {α : Type} (c : Prop) [Decidable c] (x y : M α) (s : Sys) :
    (if c then x else y).run s = if c then x.run s else y.run s := by split <;> rfl
@[simp] theorem run_raise {α : Type} (cls code acc fa : Nat) (s : Sys) :
    (raise cls code acc fa : M α).run s = .error (.exc { cls := cls, code := code, acc := acc, faddr := fa } false) s := rfl
@[simp] theorem run_illegal {α : Type} (s : Sys) :
    (illegal : M α).run s = .error (.exc { cls := 1, code := 1 } false) s := rfl
@[simp] theorem run_illegalControl {α : Type} (s : Sys) :
    (illegalControl : M α).run s = .error (.exc { cls := 1, code := 2 } false) s := rfl
@[simp] theorem run_privileged {α : Type} (s : Sys) :
    (privileged : M α).run s = .error (.exc { cls := 1, code := 3 } false) s := rfl
@[simp] theorem run_misaligned {α : Type} (acc a : Nat) (s : Sys) :
    (misaligned acc a : M α).run s = .error (.exc { cls := 1, code := 4, acc := acc, faddr := a } false) s := rfl

theorem run_map {α β : Type} (f : α → β) (x : M α) (s : Sys) :
    (f <$> x).run s = match x.run s with
      | .ok v s' => .ok (f v) s'
      | .error e s' => .error e s' := by
  simp only [Functor.map, EStateM.map, EStateM.run]
  split <;> rename_i h <;> simp [h]

theorem run_bind_ok {α β : Type} {x : M α} {f : α → M β} {s s' : Sys} {v : α} (h : x.run s = .ok v s') :
    (x >>= f).run s = (f v).run s' := by rw [run_bind, h]

theorem run_bind_error {α β : Type} {x : M α} {f : α → M β} {s s' : Sys} {e : Stop} (h : x.run s = .error e s') :
    (x >>= f).run s = .error e s' := by rw [run_bind, h]

/-- The body of an issued instruction, run from the state after the fetch. -/
theorem runInsn_ok {known : Bool} {a : Issue} {i : Instr} {len : Nat} {s s1 s2 : Sys} {body : M Next} {n : Next}
    (h : IssuedAs known a i len s s1) (hb : body.run s1 = .ok n s2) :
    runInsn a i len known body (s.closeShadow a.core) = s2.retire a.core len n := by
  have e : (do fetch a i known; loopCheck a.core len; body : M Next) =
      ((do fetch a i known; loopCheck a.core len : M Unit) >>= fun _ => body) := by simp
  simp only [runInsn, e, run_bind_ok h.2.2, hb]

theorem runInsn_stop {known : Bool} {a : Issue} {i : Instr} {len : Nat} {s s1 s2 : Sys} {body : M Next} {e : Stop}
    (h : IssuedAs known a i len s s1) (hb : body.run s1 = .error e s2) :
    runInsn a i len known body (s.closeShadow a.core) = Sys.stopped a.core (s.closeShadow a.core) e s2 := by
  have e : (do fetch a i known; loopCheck a.core len; body : M Next) =
      ((do fetch a i known; loopCheck a.core len : M Unit) >>= fun _ => body) := by simp
  simp only [runInsn, e, run_bind_ok h.2.2, hb]

/-- An issued instruction meets no failure of the hardware: it runs. -/
theorem insn_run {known : Bool} {a : Issue} {i : Instr} {len : Nat} {s s1 : Sys} {body : M Next} {mc : Option MicroEnd}
    (h : IssuedAs known a i len s s1) :
    insn a i len known mc body s = runInsn a i len known body (s.closeShadow a.core) := by
  simp only [insn, h.1, h.2.1, Bool.not_true, Bool.false_eq_true, if_false]

theorem insn_ok {known : Bool} {a : Issue} {i : Instr} {len : Nat} {st : State} {s1 s2 : Sys} {body : M Next} {n : Next}
    {mc : Option MicroEnd} (h : IssuedAs known a i len st.sys s1) (hb : body.run s1 = .ok n s2) :
    onSys (insn a i len known mc body) st = doneBy a len n st s2 := by
  rw [onSys, insn_run h, runInsn_ok h hb, doneBy]

/-- An issued instruction whose body stops: what the stop does, from the state at the instruction's start. -/
theorem insn_stop {known : Bool} {a : Issue} {i : Instr} {len : Nat} {st : State} {s1 s2 : Sys} {body : M Next} {e : Stop}
    {mc : Option MicroEnd} (h : IssuedAs known a i len st.sys s1) (hb : body.run s1 = .error e s2) :
    onSys (insn a i len known mc body) st = leftBy st (Sys.stopped a.core (st.sys.closeShadow a.core) e s2) := by
  rw [onSys, insn_run h, runInsn_stop h hb, leftBy]

/-- An issued instruction whose body meets an exception takes it, from the state at its start. -/
theorem insn_exc {known : Bool} {a : Issue} {i : Instr} {len : Nat} {st : State} {s1 s2 : Sys} {body : M Next} {e : Exc}
    {mc : Option MicroEnd} (h : IssuedAs known a i len st.sys s1)
    (hb : body.run s1 = .error (.exc e false) s2) : onSys (insn a i len known mc body) st = trapBy a e st s2 := by
  rw [insn_stop h hb]
  rfl

theorem instr_ok {a : Issue} {i : Instr} {len : Nat} {st : State} {s1 s2 : Sys} {body : M Next} {n : Next}
    (h : Issued a i len st.sys s1) (hb : body.run s1 = .ok n s2) : instr a i len body st = doneBy a len n st s2 :=
  insn_ok h hb

theorem instr_exc {a : Issue} {i : Instr} {len : Nat} {st : State} {s1 s2 : Sys} {body : M Next} {e : Exc}
    (h : Issued a i len st.sys s1) (hb : body.run s1 = .error (.exc e false) s2) : instr a i len body st = trapBy a e st s2 :=
  insn_exc h hb

theorem instrMicro_ok {a : Issue} {i : Instr} {len : Nat} {st : State} {s1 s2 : Sys} {body : M Next} {n : Next}
    (h : Issued a i len st.sys s1) (hb : body.run s1 = .ok n s2) : instrMicro a i len body st = doneBy a len n st s2 :=
  insn_ok h hb

theorem instrMicro_exc {a : Issue} {i : Instr} {len : Nat} {st : State} {s1 s2 : Sys} {body : M Next} {e : Exc}
    (h : Issued a i len st.sys s1) (hb : body.run s1 = .error (.exc e false) s2) :
    instrMicro a i len body st = trapBy a e st s2 :=
  insn_exc h hb

@[simp] theorem run_ctxM (k : Nat) (s : Sys) : (ctxM k).run s = .ok (s.ctx k) s := rfl
@[simp] theorem run_rG (k : Nat) (r : Reg) (s : Sys) : (rG k r).run s = .ok (s.gr k r) s := rfl
@[simp] theorem run_rP (k : Nat) (r : Reg) (s : Sys) : (rP k r).run s = .ok (s.gp k r) s := rfl
@[simp] theorem run_wG (k : Nat) (r : Reg) (v : Word) (s : Sys) : (wG k r v).run s = .ok () (s.putR k r v) := rfl
@[simp] theorem run_wP (k : Nat) (r : Reg) (v : DWord) (s : Sys) : (wP k r v).run s = .ok () (s.putP k r v) := rfl
@[simp] theorem run_modX (k : Nat) (f : Ctx → Ctx) (s : Sys) : (modX k f).run s = .ok () (s.modCtx k f) := rfl
@[simp] theorem run_seq (b : M Unit) (s : Sys) : (seq b).run s = match b.run s with
    | .ok _ s' => .ok .seq s'
    | .error e s' => .error e s' := by
  simp only [seq, run_bind]
  split <;> simp_all
@[simp] theorem run_needEven (r : Reg) (s : Sys) : (needEven r).run s =
    if r.val % 2 = 1 then .error (.exc { cls := 1, code := 1 } false) s else .ok () s := by
  simp only [needEven, run_ite, run_illegal, run_pure]
@[simp] theorem run_needFR (r : Reg) (s : Sys) : (needFR r).run s =
    if 16 ≤ r.val then .error (.exc { cls := 1, code := 1 } false) s else .ok () s := by
  simp only [needFR, run_ite, run_illegal, run_pure]
@[simp] theorem run_tick (k n : Nat) (s : Sys) :
    (tick k n).run s = .ok () (s.modCore k (fun c => { c with cyc := c.cyc + n })) := rfl
@[simp] theorem run_setF (k : Nat) (f : FUnit → FUnit) (s : Sys) :
    (setF k f).run s = .ok () (s.modCore k (fun c => { c with fu := f c.fu })) := rfl
@[simp] theorem run_setD (k : Nat) (f : DUnit → DUnit) (s : Sys) :
    (setD k f).run s = .ok () (s.modCore k (fun c => { c with du := f c.du })) := rfl
@[simp] theorem run_getF (k : Nat) (s : Sys) : (getF k).run s = .ok (s.core k).fu s := rfl
@[simp] theorem run_getD' (k : Nat) (s : Sys) : (getD' k).run s = .ok (s.core k).du s := rfl

end Sys2Proof.Machine
end

