-- ==== Sys2Proof/Laws/Tables.lean ====
section
/-! SUPPORT. Tables by number: read after write, and updates of one core, context, task or part. -/

namespace Sys2Proof.Machine

@[simp] theorem tfind_tset_same {α : Type} (t : Tbl α) (k : Nat) (a : α) : tfind (tset t k a) k = some a := by
  induction t with
  | nil => simp [tset, tfind]
  | cons p t ih =>
    obtain ⟨i, b⟩ := p
    simp only [tset]
    split
    · simp [tfind]
    · split
      · simp [tfind]
      · rename_i h
        simp [tfind, ih, Ne.symm h]

theorem tfind_tset_ne {α : Type} (t : Tbl α) {k j : Nat} (a : α) (h : j ≠ k) : tfind (tset t k a) j = tfind t j := by
  induction t with
  | nil => simp [tset, tfind]; omega
  | cons p t ih =>
    obtain ⟨i, b⟩ := p
    simp only [tset]
    split
    · simp [tfind, Ne.symm h]
    · split
      · rename_i hk
        simp [tfind, ← hk, Ne.symm h]
      · simp [tfind, ih]

@[simp] theorem tget_tset_same {α : Type} (d : α) (t : Tbl α) (k : Nat) (a : α) : tget d (tset t k a) k = a := by
  simp [tget]

theorem tget_tset_ne {α : Type} (d : α) (t : Tbl α) {k j : Nat} (a : α) (h : j ≠ k) :
    tget d (tset t k a) j = tget d t j := by simp [tget, tfind_tset_ne t a h]

@[simp] theorem tset_tset {α : Type} (t : Tbl α) (k : Nat) (a b : α) : tset (tset t k a) k b = tset t k b := by
  induction t with
  | nil => simp [tset]
  | cons p t ih =>
    obtain ⟨i, c⟩ := p
    simp only [tset]
    split
    · simp [tset]
    · split <;> simp_all [tset]

@[simp] theorem core_setCore (s : Sys) (k : Nat) (c : Core) : (s.setCore k c).core k = c := by simp [Sys.core, Sys.setCore]
theorem core_setCore_ne (s : Sys) {k j : Nat} (c : Core) (h : j ≠ k) : (s.setCore k c).core j = s.core j := by
  simp [Sys.core, Sys.setCore, tget_tset_ne _ _ _ h]
@[simp] theorem setCore_setCore (s : Sys) (k : Nat) (c d : Core) : (s.setCore k c).setCore k d = s.setCore k d := by
  simp [Sys.setCore]

end Sys2Proof.Machine
end

