-- ==== Sys2Proof/Laws/State.lean ====
section
/-! SUPPORT. One lemma for each field of the state and each named update: what the update leaves of the field. -/

namespace Sys2Proof.Machine

/-! ## setCore -/

@[simp] theorem setCore_cores (s : Sys) (k : Nat) (c : Core) : (s.setCore k c).cores = tset s.cores k c := rfl
@[simp] theorem setCore_l3 (s : Sys) (k : Nat) (c : Core) : (s.setCore k c).l3 = s.l3 := rfl
@[simp] theorem setCore_l3Err (s : Sys) (k : Nat) (c : Core) : (s.setCore k c).l3Err = s.l3Err := rfl
@[simp] theorem setCore_mem (s : Sys) (k : Nat) (c : Core) : (s.setCore k c).mem = s.mem := rfl
@[simp] theorem setCore_poison (s : Sys) (k : Nat) (c : Core) : (s.setCore k c).poison = s.poison := rfl
@[simp] theorem setCore_flips (s : Sys) (k : Nat) (c : Core) : (s.setCore k c).flips = s.flips := rfl
@[simp] theorem setCore_keyc (s : Sys) (k : Nat) (c : Core) : (s.setCore k c).keyc = s.keyc := rfl
@[simp] theorem setCore_dirs (s : Sys) (k : Nat) (c : Core) : (s.setCore k c).dirs = s.dirs := rfl
@[simp] theorem setCore_late (s : Sys) (k : Nat) (c : Core) : (s.setCore k c).late = s.late := rfl
@[simp] theorem setCore_tracker (s : Sys) (k : Nat) (c : Core) : (s.setCore k c).tracker = s.tracker := rfl
@[simp] theorem setCore_dirUse (s : Sys) (k : Nat) (c : Core) : (s.setCore k c).dirUse = s.dirUse := rfl
@[simp] theorem setCore_mcs (s : Sys) (k : Nat) (c : Core) : (s.setCore k c).mcs = s.mcs := rfl
@[simp] theorem setCore_host (s : Sys) (k : Nat) (c : Core) : (s.setCore k c).host = s.host := rfl
@[simp] theorem setCore_camp (s : Sys) (k : Nat) (c : Core) : (s.setCore k c).camp = s.camp := rfl
@[simp] theorem setCore_parts (s : Sys) (k : Nat) (c : Core) : (s.setCore k c).parts = s.parts := rfl
@[simp] theorem setCore_bus (s : Sys) (k : Nat) (c : Core) : (s.setCore k c).bus = s.bus := rfl
@[simp] theorem setCore_alloc (s : Sys) (k : Nat) (c : Core) : (s.setCore k c).alloc = s.alloc := rfl
@[simp] theorem setCore_j0up (s : Sys) (k : Nat) (c : Core) : (s.setCore k c).j0up = s.j0up := rfl
@[simp] theorem setCore_j1up (s : Sys) (k : Nat) (c : Core) : (s.setCore k c).j1up = s.j1up := rfl
@[simp] theorem setCore_jdev0 (s : Sys) (k : Nat) (c : Core) : (s.setCore k c).jdev0 = s.jdev0 := rfl
@[simp] theorem setCore_jdev1 (s : Sys) (k : Nat) (c : Core) : (s.setCore k c).jdev1 = s.jdev1 := rfl
@[simp] theorem setCore_dmas (s : Sys) (k : Nat) (c : Core) : (s.setCore k c).dmas = s.dmas := rfl
@[simp] theorem setCore_tansy (s : Sys) (k : Nat) (c : Core) : (s.setCore k c).tansy = s.tansy := rfl
@[simp] theorem setCore_tabs (s : Sys) (k : Nat) (c : Core) : (s.setCore k c).tabs = s.tabs := rfl
@[simp] theorem setCore_seals (s : Sys) (k : Nat) (c : Core) : (s.setCore k c).seals = s.seals := rfl
@[simp] theorem setCore_port (s : Sys) (k : Nat) (c : Core) : (s.setCore k c).port = s.port := rfl
@[simp] theorem setCore_fab (s : Sys) (k : Nat) (c : Core) : (s.setCore k c).fab = s.fab := rfl
@[simp] theorem setCore_pf (s : Sys) (k : Nat) (c : Core) : (s.setCore k c).pf = s.pf := rfl
@[simp] theorem setCore_vfs (s : Sys) (k : Nat) (c : Core) : (s.setCore k c).vfs = s.vfs := rfl
@[simp] theorem setCore_seqlLatch (s : Sys) (k : Nat) (c : Core) : (s.setCore k c).seqlLatch = s.seqlLatch := rfl
@[simp] theorem setCore_timeUs (s : Sys) (k : Nat) (c : Core) : (s.setCore k c).timeUs = s.timeUs := rfl
@[simp] theorem setCore_free (s : Sys) (k : Nat) (c : Core) : (s.setCore k c).free = s.free := rfl

/-! ## setCampion -/

@[simp] theorem setCampion_cores (s : Sys) (k : Nat) (v : Campion) : (s.setCampion k v).cores = s.cores := rfl
@[simp] theorem setCampion_l3 (s : Sys) (k : Nat) (v : Campion) : (s.setCampion k v).l3 = s.l3 := rfl
@[simp] theorem setCampion_l3Err (s : Sys) (k : Nat) (v : Campion) : (s.setCampion k v).l3Err = s.l3Err := rfl
@[simp] theorem setCampion_mem (s : Sys) (k : Nat) (v : Campion) : (s.setCampion k v).mem = s.mem := rfl
@[simp] theorem setCampion_poison (s : Sys) (k : Nat) (v : Campion) : (s.setCampion k v).poison = s.poison := rfl
@[simp] theorem setCampion_flips (s : Sys) (k : Nat) (v : Campion) : (s.setCampion k v).flips = s.flips := rfl
@[simp] theorem setCampion_keyc (s : Sys) (k : Nat) (v : Campion) : (s.setCampion k v).keyc = s.keyc := rfl
@[simp] theorem setCampion_dirs (s : Sys) (k : Nat) (v : Campion) : (s.setCampion k v).dirs = s.dirs := rfl
@[simp] theorem setCampion_late (s : Sys) (k : Nat) (v : Campion) : (s.setCampion k v).late = s.late := rfl
@[simp] theorem setCampion_tracker (s : Sys) (k : Nat) (v : Campion) : (s.setCampion k v).tracker = s.tracker := rfl
@[simp] theorem setCampion_dirUse (s : Sys) (k : Nat) (v : Campion) : (s.setCampion k v).dirUse = s.dirUse := rfl
@[simp] theorem setCampion_mcs (s : Sys) (k : Nat) (v : Campion) : (s.setCampion k v).mcs = s.mcs := rfl
@[simp] theorem setCampion_host (s : Sys) (k : Nat) (v : Campion) : (s.setCampion k v).host = s.host := rfl
@[simp] theorem setCampion_camp (s : Sys) (k : Nat) (v : Campion) : (s.setCampion k v).camp = tset s.camp k v := rfl
@[simp] theorem setCampion_parts (s : Sys) (k : Nat) (v : Campion) : (s.setCampion k v).parts = s.parts := rfl
@[simp] theorem setCampion_bus (s : Sys) (k : Nat) (v : Campion) : (s.setCampion k v).bus = s.bus := rfl
@[simp] theorem setCampion_alloc (s : Sys) (k : Nat) (v : Campion) : (s.setCampion k v).alloc = s.alloc := rfl
@[simp] theorem setCampion_j0up (s : Sys) (k : Nat) (v : Campion) : (s.setCampion k v).j0up = s.j0up := rfl
@[simp] theorem setCampion_j1up (s : Sys) (k : Nat) (v : Campion) : (s.setCampion k v).j1up = s.j1up := rfl
@[simp] theorem setCampion_jdev0 (s : Sys) (k : Nat) (v : Campion) : (s.setCampion k v).jdev0 = s.jdev0 := rfl
@[simp] theorem setCampion_jdev1 (s : Sys) (k : Nat) (v : Campion) : (s.setCampion k v).jdev1 = s.jdev1 := rfl
@[simp] theorem setCampion_dmas (s : Sys) (k : Nat) (v : Campion) : (s.setCampion k v).dmas = s.dmas := rfl
@[simp] theorem setCampion_tansy (s : Sys) (k : Nat) (v : Campion) : (s.setCampion k v).tansy = s.tansy := rfl
@[simp] theorem setCampion_tabs (s : Sys) (k : Nat) (v : Campion) : (s.setCampion k v).tabs = s.tabs := rfl
@[simp] theorem setCampion_seals (s : Sys) (k : Nat) (v : Campion) : (s.setCampion k v).seals = s.seals := rfl
@[simp] theorem setCampion_port (s : Sys) (k : Nat) (v : Campion) : (s.setCampion k v).port = s.port := rfl
@[simp] theorem setCampion_fab (s : Sys) (k : Nat) (v : Campion) : (s.setCampion k v).fab = s.fab := rfl
@[simp] theorem setCampion_pf (s : Sys) (k : Nat) (v : Campion) : (s.setCampion k v).pf = s.pf := rfl
@[simp] theorem setCampion_vfs (s : Sys) (k : Nat) (v : Campion) : (s.setCampion k v).vfs = s.vfs := rfl
@[simp] theorem setCampion_seqlLatch (s : Sys) (k : Nat) (v : Campion) : (s.setCampion k v).seqlLatch = s.seqlLatch := rfl
@[simp] theorem setCampion_timeUs (s : Sys) (k : Nat) (v : Campion) : (s.setCampion k v).timeUs = s.timeUs := rfl
@[simp] theorem setCampion_free (s : Sys) (k : Nat) (v : Campion) : (s.setCampion k v).free = s.free := rfl

/-! ## setPart -/

@[simp] theorem setPart_cores (s : Sys) (k : Nat) (v : Part) : (s.setPart k v).cores = s.cores := rfl
@[simp] theorem setPart_l3 (s : Sys) (k : Nat) (v : Part) : (s.setPart k v).l3 = s.l3 := rfl
@[simp] theorem setPart_l3Err (s : Sys) (k : Nat) (v : Part) : (s.setPart k v).l3Err = s.l3Err := rfl
@[simp] theorem setPart_mem (s : Sys) (k : Nat) (v : Part) : (s.setPart k v).mem = s.mem := rfl
@[simp] theorem setPart_poison (s : Sys) (k : Nat) (v : Part) : (s.setPart k v).poison = s.poison := rfl
@[simp] theorem setPart_flips (s : Sys) (k : Nat) (v : Part) : (s.setPart k v).flips = s.flips := rfl
@[simp] theorem setPart_keyc (s : Sys) (k : Nat) (v : Part) : (s.setPart k v).keyc = s.keyc := rfl
@[simp] theorem setPart_dirs (s : Sys) (k : Nat) (v : Part) : (s.setPart k v).dirs = s.dirs := rfl
@[simp] theorem setPart_late (s : Sys) (k : Nat) (v : Part) : (s.setPart k v).late = s.late := rfl
@[simp] theorem setPart_tracker (s : Sys) (k : Nat) (v : Part) : (s.setPart k v).tracker = s.tracker := rfl
@[simp] theorem setPart_dirUse (s : Sys) (k : Nat) (v : Part) : (s.setPart k v).dirUse = s.dirUse := rfl
@[simp] theorem setPart_mcs (s : Sys) (k : Nat) (v : Part) : (s.setPart k v).mcs = s.mcs := rfl
@[simp] theorem setPart_host (s : Sys) (k : Nat) (v : Part) : (s.setPart k v).host = s.host := rfl
@[simp] theorem setPart_camp (s : Sys) (k : Nat) (v : Part) : (s.setPart k v).camp = s.camp := rfl
@[simp] theorem setPart_parts (s : Sys) (k : Nat) (v : Part) : (s.setPart k v).parts = tset s.parts k v := rfl
@[simp] theorem setPart_bus (s : Sys) (k : Nat) (v : Part) : (s.setPart k v).bus = s.bus := rfl
@[simp] theorem setPart_alloc (s : Sys) (k : Nat) (v : Part) : (s.setPart k v).alloc = s.alloc := rfl
@[simp] theorem setPart_j0up (s : Sys) (k : Nat) (v : Part) : (s.setPart k v).j0up = s.j0up := rfl
@[simp] theorem setPart_j1up (s : Sys) (k : Nat) (v : Part) : (s.setPart k v).j1up = s.j1up := rfl
@[simp] theorem setPart_jdev0 (s : Sys) (k : Nat) (v : Part) : (s.setPart k v).jdev0 = s.jdev0 := rfl
@[simp] theorem setPart_jdev1 (s : Sys) (k : Nat) (v : Part) : (s.setPart k v).jdev1 = s.jdev1 := rfl
@[simp] theorem setPart_dmas (s : Sys) (k : Nat) (v : Part) : (s.setPart k v).dmas = s.dmas := rfl
@[simp] theorem setPart_tansy (s : Sys) (k : Nat) (v : Part) : (s.setPart k v).tansy = s.tansy := rfl
@[simp] theorem setPart_tabs (s : Sys) (k : Nat) (v : Part) : (s.setPart k v).tabs = s.tabs := rfl
@[simp] theorem setPart_seals (s : Sys) (k : Nat) (v : Part) : (s.setPart k v).seals = s.seals := rfl
@[simp] theorem setPart_port (s : Sys) (k : Nat) (v : Part) : (s.setPart k v).port = s.port := rfl
@[simp] theorem setPart_fab (s : Sys) (k : Nat) (v : Part) : (s.setPart k v).fab = s.fab := rfl
@[simp] theorem setPart_pf (s : Sys) (k : Nat) (v : Part) : (s.setPart k v).pf = s.pf := rfl
@[simp] theorem setPart_vfs (s : Sys) (k : Nat) (v : Part) : (s.setPart k v).vfs = s.vfs := rfl
@[simp] theorem setPart_seqlLatch (s : Sys) (k : Nat) (v : Part) : (s.setPart k v).seqlLatch = s.seqlLatch := rfl
@[simp] theorem setPart_timeUs (s : Sys) (k : Nat) (v : Part) : (s.setPart k v).timeUs = s.timeUs := rfl
@[simp] theorem setPart_free (s : Sys) (k : Nat) (v : Part) : (s.setPart k v).free = s.free := rfl

/-! ## setBu -/

@[simp] theorem setBu_cores (s : Sys) (k : Nat) (v : Bu) : (s.setBu k v).cores = s.cores := rfl
@[simp] theorem setBu_l3 (s : Sys) (k : Nat) (v : Bu) : (s.setBu k v).l3 = s.l3 := rfl
@[simp] theorem setBu_l3Err (s : Sys) (k : Nat) (v : Bu) : (s.setBu k v).l3Err = s.l3Err := rfl
@[simp] theorem setBu_mem (s : Sys) (k : Nat) (v : Bu) : (s.setBu k v).mem = s.mem := rfl
@[simp] theorem setBu_poison (s : Sys) (k : Nat) (v : Bu) : (s.setBu k v).poison = s.poison := rfl
@[simp] theorem setBu_flips (s : Sys) (k : Nat) (v : Bu) : (s.setBu k v).flips = s.flips := rfl
@[simp] theorem setBu_keyc (s : Sys) (k : Nat) (v : Bu) : (s.setBu k v).keyc = s.keyc := rfl
@[simp] theorem setBu_dirs (s : Sys) (k : Nat) (v : Bu) : (s.setBu k v).dirs = s.dirs := rfl
@[simp] theorem setBu_late (s : Sys) (k : Nat) (v : Bu) : (s.setBu k v).late = s.late := rfl
@[simp] theorem setBu_tracker (s : Sys) (k : Nat) (v : Bu) : (s.setBu k v).tracker = s.tracker := rfl
@[simp] theorem setBu_dirUse (s : Sys) (k : Nat) (v : Bu) : (s.setBu k v).dirUse = s.dirUse := rfl
@[simp] theorem setBu_mcs (s : Sys) (k : Nat) (v : Bu) : (s.setBu k v).mcs = s.mcs := rfl
@[simp] theorem setBu_host (s : Sys) (k : Nat) (v : Bu) : (s.setBu k v).host = s.host := rfl
@[simp] theorem setBu_camp (s : Sys) (k : Nat) (v : Bu) : (s.setBu k v).camp = s.camp := rfl
@[simp] theorem setBu_parts (s : Sys) (k : Nat) (v : Bu) : (s.setBu k v).parts = s.parts := rfl
@[simp] theorem setBu_bus (s : Sys) (k : Nat) (v : Bu) : (s.setBu k v).bus = tset s.bus k v := rfl
@[simp] theorem setBu_alloc (s : Sys) (k : Nat) (v : Bu) : (s.setBu k v).alloc = s.alloc := rfl
@[simp] theorem setBu_j0up (s : Sys) (k : Nat) (v : Bu) : (s.setBu k v).j0up = s.j0up := rfl
@[simp] theorem setBu_j1up (s : Sys) (k : Nat) (v : Bu) : (s.setBu k v).j1up = s.j1up := rfl
@[simp] theorem setBu_jdev0 (s : Sys) (k : Nat) (v : Bu) : (s.setBu k v).jdev0 = s.jdev0 := rfl
@[simp] theorem setBu_jdev1 (s : Sys) (k : Nat) (v : Bu) : (s.setBu k v).jdev1 = s.jdev1 := rfl
@[simp] theorem setBu_dmas (s : Sys) (k : Nat) (v : Bu) : (s.setBu k v).dmas = s.dmas := rfl
@[simp] theorem setBu_tansy (s : Sys) (k : Nat) (v : Bu) : (s.setBu k v).tansy = s.tansy := rfl
@[simp] theorem setBu_tabs (s : Sys) (k : Nat) (v : Bu) : (s.setBu k v).tabs = s.tabs := rfl
@[simp] theorem setBu_seals (s : Sys) (k : Nat) (v : Bu) : (s.setBu k v).seals = s.seals := rfl
@[simp] theorem setBu_port (s : Sys) (k : Nat) (v : Bu) : (s.setBu k v).port = s.port := rfl
@[simp] theorem setBu_fab (s : Sys) (k : Nat) (v : Bu) : (s.setBu k v).fab = s.fab := rfl
@[simp] theorem setBu_pf (s : Sys) (k : Nat) (v : Bu) : (s.setBu k v).pf = s.pf := rfl
@[simp] theorem setBu_vfs (s : Sys) (k : Nat) (v : Bu) : (s.setBu k v).vfs = s.vfs := rfl
@[simp] theorem setBu_seqlLatch (s : Sys) (k : Nat) (v : Bu) : (s.setBu k v).seqlLatch = s.seqlLatch := rfl
@[simp] theorem setBu_timeUs (s : Sys) (k : Nat) (v : Bu) : (s.setBu k v).timeUs = s.timeUs := rfl
@[simp] theorem setBu_free (s : Sys) (k : Nat) (v : Bu) : (s.setBu k v).free = s.free := rfl

/-! ## setDma -/

@[simp] theorem setDma_cores (s : Sys) (k : Nat) (v : Dma) : (s.setDma k v).cores = s.cores := rfl
@[simp] theorem setDma_l3 (s : Sys) (k : Nat) (v : Dma) : (s.setDma k v).l3 = s.l3 := rfl
@[simp] theorem setDma_l3Err (s : Sys) (k : Nat) (v : Dma) : (s.setDma k v).l3Err = s.l3Err := rfl
@[simp] theorem setDma_mem (s : Sys) (k : Nat) (v : Dma) : (s.setDma k v).mem = s.mem := rfl
@[simp] theorem setDma_poison (s : Sys) (k : Nat) (v : Dma) : (s.setDma k v).poison = s.poison := rfl
@[simp] theorem setDma_flips (s : Sys) (k : Nat) (v : Dma) : (s.setDma k v).flips = s.flips := rfl
@[simp] theorem setDma_keyc (s : Sys) (k : Nat) (v : Dma) : (s.setDma k v).keyc = s.keyc := rfl
@[simp] theorem setDma_dirs (s : Sys) (k : Nat) (v : Dma) : (s.setDma k v).dirs = s.dirs := rfl
@[simp] theorem setDma_late (s : Sys) (k : Nat) (v : Dma) : (s.setDma k v).late = s.late := rfl
@[simp] theorem setDma_tracker (s : Sys) (k : Nat) (v : Dma) : (s.setDma k v).tracker = s.tracker := rfl
@[simp] theorem setDma_dirUse (s : Sys) (k : Nat) (v : Dma) : (s.setDma k v).dirUse = s.dirUse := rfl
@[simp] theorem setDma_mcs (s : Sys) (k : Nat) (v : Dma) : (s.setDma k v).mcs = s.mcs := rfl
@[simp] theorem setDma_host (s : Sys) (k : Nat) (v : Dma) : (s.setDma k v).host = s.host := rfl
@[simp] theorem setDma_camp (s : Sys) (k : Nat) (v : Dma) : (s.setDma k v).camp = s.camp := rfl
@[simp] theorem setDma_parts (s : Sys) (k : Nat) (v : Dma) : (s.setDma k v).parts = s.parts := rfl
@[simp] theorem setDma_bus (s : Sys) (k : Nat) (v : Dma) : (s.setDma k v).bus = s.bus := rfl
@[simp] theorem setDma_alloc (s : Sys) (k : Nat) (v : Dma) : (s.setDma k v).alloc = s.alloc := rfl
@[simp] theorem setDma_j0up (s : Sys) (k : Nat) (v : Dma) : (s.setDma k v).j0up = s.j0up := rfl
@[simp] theorem setDma_j1up (s : Sys) (k : Nat) (v : Dma) : (s.setDma k v).j1up = s.j1up := rfl
@[simp] theorem setDma_jdev0 (s : Sys) (k : Nat) (v : Dma) : (s.setDma k v).jdev0 = s.jdev0 := rfl
@[simp] theorem setDma_jdev1 (s : Sys) (k : Nat) (v : Dma) : (s.setDma k v).jdev1 = s.jdev1 := rfl
@[simp] theorem setDma_dmas (s : Sys) (k : Nat) (v : Dma) : (s.setDma k v).dmas = tset s.dmas k v := rfl
@[simp] theorem setDma_tansy (s : Sys) (k : Nat) (v : Dma) : (s.setDma k v).tansy = s.tansy := rfl
@[simp] theorem setDma_tabs (s : Sys) (k : Nat) (v : Dma) : (s.setDma k v).tabs = s.tabs := rfl
@[simp] theorem setDma_seals (s : Sys) (k : Nat) (v : Dma) : (s.setDma k v).seals = s.seals := rfl
@[simp] theorem setDma_port (s : Sys) (k : Nat) (v : Dma) : (s.setDma k v).port = s.port := rfl
@[simp] theorem setDma_fab (s : Sys) (k : Nat) (v : Dma) : (s.setDma k v).fab = s.fab := rfl
@[simp] theorem setDma_pf (s : Sys) (k : Nat) (v : Dma) : (s.setDma k v).pf = s.pf := rfl
@[simp] theorem setDma_vfs (s : Sys) (k : Nat) (v : Dma) : (s.setDma k v).vfs = s.vfs := rfl
@[simp] theorem setDma_seqlLatch (s : Sys) (k : Nat) (v : Dma) : (s.setDma k v).seqlLatch = s.seqlLatch := rfl
@[simp] theorem setDma_timeUs (s : Sys) (k : Nat) (v : Dma) : (s.setDma k v).timeUs = s.timeUs := rfl
@[simp] theorem setDma_free (s : Sys) (k : Nat) (v : Dma) : (s.setDma k v).free = s.free := rfl

/-! ## setMc -/

@[simp] theorem setMc_cores (s : Sys) (k : Nat) (v : Mc) : (s.setMc k v).cores = s.cores := rfl
@[simp] theorem setMc_l3 (s : Sys) (k : Nat) (v : Mc) : (s.setMc k v).l3 = s.l3 := rfl
@[simp] theorem setMc_l3Err (s : Sys) (k : Nat) (v : Mc) : (s.setMc k v).l3Err = s.l3Err := rfl
@[simp] theorem setMc_mem (s : Sys) (k : Nat) (v : Mc) : (s.setMc k v).mem = s.mem := rfl
@[simp] theorem setMc_poison (s : Sys) (k : Nat) (v : Mc) : (s.setMc k v).poison = s.poison := rfl
@[simp] theorem setMc_flips (s : Sys) (k : Nat) (v : Mc) : (s.setMc k v).flips = s.flips := rfl
@[simp] theorem setMc_keyc (s : Sys) (k : Nat) (v : Mc) : (s.setMc k v).keyc = s.keyc := rfl
@[simp] theorem setMc_dirs (s : Sys) (k : Nat) (v : Mc) : (s.setMc k v).dirs = s.dirs := rfl
@[simp] theorem setMc_late (s : Sys) (k : Nat) (v : Mc) : (s.setMc k v).late = s.late := rfl
@[simp] theorem setMc_tracker (s : Sys) (k : Nat) (v : Mc) : (s.setMc k v).tracker = s.tracker := rfl
@[simp] theorem setMc_dirUse (s : Sys) (k : Nat) (v : Mc) : (s.setMc k v).dirUse = s.dirUse := rfl
@[simp] theorem setMc_mcs (s : Sys) (k : Nat) (v : Mc) : (s.setMc k v).mcs = tset s.mcs k v := rfl
@[simp] theorem setMc_host (s : Sys) (k : Nat) (v : Mc) : (s.setMc k v).host = s.host := rfl
@[simp] theorem setMc_camp (s : Sys) (k : Nat) (v : Mc) : (s.setMc k v).camp = s.camp := rfl
@[simp] theorem setMc_parts (s : Sys) (k : Nat) (v : Mc) : (s.setMc k v).parts = s.parts := rfl
@[simp] theorem setMc_bus (s : Sys) (k : Nat) (v : Mc) : (s.setMc k v).bus = s.bus := rfl
@[simp] theorem setMc_alloc (s : Sys) (k : Nat) (v : Mc) : (s.setMc k v).alloc = s.alloc := rfl
@[simp] theorem setMc_j0up (s : Sys) (k : Nat) (v : Mc) : (s.setMc k v).j0up = s.j0up := rfl
@[simp] theorem setMc_j1up (s : Sys) (k : Nat) (v : Mc) : (s.setMc k v).j1up = s.j1up := rfl
@[simp] theorem setMc_jdev0 (s : Sys) (k : Nat) (v : Mc) : (s.setMc k v).jdev0 = s.jdev0 := rfl
@[simp] theorem setMc_jdev1 (s : Sys) (k : Nat) (v : Mc) : (s.setMc k v).jdev1 = s.jdev1 := rfl
@[simp] theorem setMc_dmas (s : Sys) (k : Nat) (v : Mc) : (s.setMc k v).dmas = s.dmas := rfl
@[simp] theorem setMc_tansy (s : Sys) (k : Nat) (v : Mc) : (s.setMc k v).tansy = s.tansy := rfl
@[simp] theorem setMc_tabs (s : Sys) (k : Nat) (v : Mc) : (s.setMc k v).tabs = s.tabs := rfl
@[simp] theorem setMc_seals (s : Sys) (k : Nat) (v : Mc) : (s.setMc k v).seals = s.seals := rfl
@[simp] theorem setMc_port (s : Sys) (k : Nat) (v : Mc) : (s.setMc k v).port = s.port := rfl
@[simp] theorem setMc_fab (s : Sys) (k : Nat) (v : Mc) : (s.setMc k v).fab = s.fab := rfl
@[simp] theorem setMc_pf (s : Sys) (k : Nat) (v : Mc) : (s.setMc k v).pf = s.pf := rfl
@[simp] theorem setMc_vfs (s : Sys) (k : Nat) (v : Mc) : (s.setMc k v).vfs = s.vfs := rfl
@[simp] theorem setMc_seqlLatch (s : Sys) (k : Nat) (v : Mc) : (s.setMc k v).seqlLatch = s.seqlLatch := rfl
@[simp] theorem setMc_timeUs (s : Sys) (k : Nat) (v : Mc) : (s.setMc k v).timeUs = s.timeUs := rfl
@[simp] theorem setMc_free (s : Sys) (k : Nat) (v : Mc) : (s.setMc k v).free = s.free := rfl

/-! ## setVf -/

@[simp] theorem setVf_cores (s : Sys) (k : Nat) (v : Vf) : (s.setVf k v).cores = s.cores := rfl
@[simp] theorem setVf_l3 (s : Sys) (k : Nat) (v : Vf) : (s.setVf k v).l3 = s.l3 := rfl
@[simp] theorem setVf_l3Err (s : Sys) (k : Nat) (v : Vf) : (s.setVf k v).l3Err = s.l3Err := rfl
@[simp] theorem setVf_mem (s : Sys) (k : Nat) (v : Vf) : (s.setVf k v).mem = s.mem := rfl
@[simp] theorem setVf_poison (s : Sys) (k : Nat) (v : Vf) : (s.setVf k v).poison = s.poison := rfl
@[simp] theorem setVf_flips (s : Sys) (k : Nat) (v : Vf) : (s.setVf k v).flips = s.flips := rfl
@[simp] theorem setVf_keyc (s : Sys) (k : Nat) (v : Vf) : (s.setVf k v).keyc = s.keyc := rfl
@[simp] theorem setVf_dirs (s : Sys) (k : Nat) (v : Vf) : (s.setVf k v).dirs = s.dirs := rfl
@[simp] theorem setVf_late (s : Sys) (k : Nat) (v : Vf) : (s.setVf k v).late = s.late := rfl
@[simp] theorem setVf_tracker (s : Sys) (k : Nat) (v : Vf) : (s.setVf k v).tracker = s.tracker := rfl
@[simp] theorem setVf_dirUse (s : Sys) (k : Nat) (v : Vf) : (s.setVf k v).dirUse = s.dirUse := rfl
@[simp] theorem setVf_mcs (s : Sys) (k : Nat) (v : Vf) : (s.setVf k v).mcs = s.mcs := rfl
@[simp] theorem setVf_host (s : Sys) (k : Nat) (v : Vf) : (s.setVf k v).host = s.host := rfl
@[simp] theorem setVf_camp (s : Sys) (k : Nat) (v : Vf) : (s.setVf k v).camp = s.camp := rfl
@[simp] theorem setVf_parts (s : Sys) (k : Nat) (v : Vf) : (s.setVf k v).parts = s.parts := rfl
@[simp] theorem setVf_bus (s : Sys) (k : Nat) (v : Vf) : (s.setVf k v).bus = s.bus := rfl
@[simp] theorem setVf_alloc (s : Sys) (k : Nat) (v : Vf) : (s.setVf k v).alloc = s.alloc := rfl
@[simp] theorem setVf_j0up (s : Sys) (k : Nat) (v : Vf) : (s.setVf k v).j0up = s.j0up := rfl
@[simp] theorem setVf_j1up (s : Sys) (k : Nat) (v : Vf) : (s.setVf k v).j1up = s.j1up := rfl
@[simp] theorem setVf_jdev0 (s : Sys) (k : Nat) (v : Vf) : (s.setVf k v).jdev0 = s.jdev0 := rfl
@[simp] theorem setVf_jdev1 (s : Sys) (k : Nat) (v : Vf) : (s.setVf k v).jdev1 = s.jdev1 := rfl
@[simp] theorem setVf_dmas (s : Sys) (k : Nat) (v : Vf) : (s.setVf k v).dmas = s.dmas := rfl
@[simp] theorem setVf_tansy (s : Sys) (k : Nat) (v : Vf) : (s.setVf k v).tansy = s.tansy := rfl
@[simp] theorem setVf_tabs (s : Sys) (k : Nat) (v : Vf) : (s.setVf k v).tabs = s.tabs := rfl
@[simp] theorem setVf_seals (s : Sys) (k : Nat) (v : Vf) : (s.setVf k v).seals = s.seals := rfl
@[simp] theorem setVf_port (s : Sys) (k : Nat) (v : Vf) : (s.setVf k v).port = s.port := rfl
@[simp] theorem setVf_fab (s : Sys) (k : Nat) (v : Vf) : (s.setVf k v).fab = s.fab := rfl
@[simp] theorem setVf_pf (s : Sys) (k : Nat) (v : Vf) : (s.setVf k v).pf = s.pf := rfl
@[simp] theorem setVf_vfs (s : Sys) (k : Nat) (v : Vf) : (s.setVf k v).vfs = tset s.vfs k v := rfl
@[simp] theorem setVf_seqlLatch (s : Sys) (k : Nat) (v : Vf) : (s.setVf k v).seqlLatch = s.seqlLatch := rfl
@[simp] theorem setVf_timeUs (s : Sys) (k : Nat) (v : Vf) : (s.setVf k v).timeUs = s.timeUs := rfl
@[simp] theorem setVf_free (s : Sys) (k : Nat) (v : Vf) : (s.setVf k v).free = s.free := rfl

/-! ## setLink -/

@[simp] theorem setLink_cores (s : Sys) (k : Nat) (v : CqLink) : (s.setLink k v).cores = s.cores := rfl
@[simp] theorem setLink_l3 (s : Sys) (k : Nat) (v : CqLink) : (s.setLink k v).l3 = s.l3 := rfl
@[simp] theorem setLink_l3Err (s : Sys) (k : Nat) (v : CqLink) : (s.setLink k v).l3Err = s.l3Err := rfl
@[simp] theorem setLink_mem (s : Sys) (k : Nat) (v : CqLink) : (s.setLink k v).mem = s.mem := rfl
@[simp] theorem setLink_poison (s : Sys) (k : Nat) (v : CqLink) : (s.setLink k v).poison = s.poison := rfl
@[simp] theorem setLink_flips (s : Sys) (k : Nat) (v : CqLink) : (s.setLink k v).flips = s.flips := rfl
@[simp] theorem setLink_keyc (s : Sys) (k : Nat) (v : CqLink) : (s.setLink k v).keyc = s.keyc := rfl
@[simp] theorem setLink_dirs (s : Sys) (k : Nat) (v : CqLink) : (s.setLink k v).dirs = s.dirs := rfl
@[simp] theorem setLink_late (s : Sys) (k : Nat) (v : CqLink) : (s.setLink k v).late = s.late := rfl
@[simp] theorem setLink_tracker (s : Sys) (k : Nat) (v : CqLink) : (s.setLink k v).tracker = s.tracker := rfl
@[simp] theorem setLink_dirUse (s : Sys) (k : Nat) (v : CqLink) : (s.setLink k v).dirUse = s.dirUse := rfl
@[simp] theorem setLink_mcs (s : Sys) (k : Nat) (v : CqLink) : (s.setLink k v).mcs = s.mcs := rfl
@[simp] theorem setLink_host (s : Sys) (k : Nat) (v : CqLink) : (s.setLink k v).host = s.host := rfl
@[simp] theorem setLink_camp (s : Sys) (k : Nat) (v : CqLink) : (s.setLink k v).camp = s.camp := rfl
@[simp] theorem setLink_parts (s : Sys) (k : Nat) (v : CqLink) : (s.setLink k v).parts = s.parts := rfl
@[simp] theorem setLink_bus (s : Sys) (k : Nat) (v : CqLink) : (s.setLink k v).bus = s.bus := rfl
@[simp] theorem setLink_alloc (s : Sys) (k : Nat) (v : CqLink) : (s.setLink k v).alloc = s.alloc := rfl
@[simp] theorem setLink_j0up (s : Sys) (k : Nat) (v : CqLink) : (s.setLink k v).j0up = s.j0up := rfl
@[simp] theorem setLink_j1up (s : Sys) (k : Nat) (v : CqLink) : (s.setLink k v).j1up = s.j1up := rfl
@[simp] theorem setLink_jdev0 (s : Sys) (k : Nat) (v : CqLink) : (s.setLink k v).jdev0 = s.jdev0 := rfl
@[simp] theorem setLink_jdev1 (s : Sys) (k : Nat) (v : CqLink) : (s.setLink k v).jdev1 = s.jdev1 := rfl
@[simp] theorem setLink_dmas (s : Sys) (k : Nat) (v : CqLink) : (s.setLink k v).dmas = s.dmas := rfl
@[simp] theorem setLink_tansy (s : Sys) (k : Nat) (v : CqLink) : (s.setLink k v).tansy = s.tansy := rfl
@[simp] theorem setLink_tabs (s : Sys) (k : Nat) (v : CqLink) : (s.setLink k v).tabs = s.tabs := rfl
@[simp] theorem setLink_seals (s : Sys) (k : Nat) (v : CqLink) : (s.setLink k v).seals = s.seals := rfl
@[simp] theorem setLink_port (s : Sys) (k : Nat) (v : CqLink) : (s.setLink k v).port = s.port := rfl
@[simp] theorem setLink_pf (s : Sys) (k : Nat) (v : CqLink) : (s.setLink k v).pf = s.pf := rfl
@[simp] theorem setLink_vfs (s : Sys) (k : Nat) (v : CqLink) : (s.setLink k v).vfs = s.vfs := rfl
@[simp] theorem setLink_seqlLatch (s : Sys) (k : Nat) (v : CqLink) : (s.setLink k v).seqlLatch = s.seqlLatch := rfl
@[simp] theorem setLink_timeUs (s : Sys) (k : Nat) (v : CqLink) : (s.setLink k v).timeUs = s.timeUs := rfl
@[simp] theorem setLink_free (s : Sys) (k : Nat) (v : CqLink) : (s.setLink k v).free = s.free := rfl
@[simp] theorem setLink_links (s : Sys) (k : Nat) (v : CqLink) : (s.setLink k v).fab.links = tset s.fab.links k v := rfl
@[simp] theorem setLink_pairs (s : Sys) (k : Nat) (v : CqLink) : (s.setLink k v).fab.pairs = s.fab.pairs := rfl
@[simp] theorem setLink_peers (s : Sys) (k : Nat) (v : CqLink) : (s.setLink k v).fab.peers = s.fab.peers := rfl
@[simp] theorem setLink_held (s : Sys) (k : Nat) (v : CqLink) : (s.setLink k v).fab.held = s.fab.held := rfl
@[simp] theorem setLink_paths (s : Sys) (k : Nat) (v : CqLink) : (s.setLink k v).fab.paths = s.fab.paths := rfl
@[simp] theorem setLink_cpDrops (s : Sys) (k : Nat) (v : CqLink) : (s.setLink k v).fab.cpDrops = s.fab.cpDrops := rfl

/-! ## modCore -/

@[simp] theorem modCore_l3 (s : Sys) (k : Nat) (f : Core → Core) : (s.modCore k f).l3 = s.l3 := rfl
@[simp] theorem modCore_l3Err (s : Sys) (k : Nat) (f : Core → Core) : (s.modCore k f).l3Err = s.l3Err := rfl
@[simp] theorem modCore_mem (s : Sys) (k : Nat) (f : Core → Core) : (s.modCore k f).mem = s.mem := rfl
@[simp] theorem modCore_poison (s : Sys) (k : Nat) (f : Core → Core) : (s.modCore k f).poison = s.poison := rfl
@[simp] theorem modCore_flips (s : Sys) (k : Nat) (f : Core → Core) : (s.modCore k f).flips = s.flips := rfl
@[simp] theorem modCore_keyc (s : Sys) (k : Nat) (f : Core → Core) : (s.modCore k f).keyc = s.keyc := rfl
@[simp] theorem modCore_dirs (s : Sys) (k : Nat) (f : Core → Core) : (s.modCore k f).dirs = s.dirs := rfl
@[simp] theorem modCore_late (s : Sys) (k : Nat) (f : Core → Core) : (s.modCore k f).late = s.late := rfl
@[simp] theorem modCore_tracker (s : Sys) (k : Nat) (f : Core → Core) : (s.modCore k f).tracker = s.tracker := rfl
@[simp] theorem modCore_dirUse (s : Sys) (k : Nat) (f : Core → Core) : (s.modCore k f).dirUse = s.dirUse := rfl
@[simp] theorem modCore_mcs (s : Sys) (k : Nat) (f : Core → Core) : (s.modCore k f).mcs = s.mcs := rfl
@[simp] theorem modCore_host (s : Sys) (k : Nat) (f : Core → Core) : (s.modCore k f).host = s.host := rfl
@[simp] theorem modCore_camp (s : Sys) (k : Nat) (f : Core → Core) : (s.modCore k f).camp = s.camp := rfl
@[simp] theorem modCore_parts (s : Sys) (k : Nat) (f : Core → Core) : (s.modCore k f).parts = s.parts := rfl
@[simp] theorem modCore_bus (s : Sys) (k : Nat) (f : Core → Core) : (s.modCore k f).bus = s.bus := rfl
@[simp] theorem modCore_alloc (s : Sys) (k : Nat) (f : Core → Core) : (s.modCore k f).alloc = s.alloc := rfl
@[simp] theorem modCore_j0up (s : Sys) (k : Nat) (f : Core → Core) : (s.modCore k f).j0up = s.j0up := rfl
@[simp] theorem modCore_j1up (s : Sys) (k : Nat) (f : Core → Core) : (s.modCore k f).j1up = s.j1up := rfl
@[simp] theorem modCore_jdev0 (s : Sys) (k : Nat) (f : Core → Core) : (s.modCore k f).jdev0 = s.jdev0 := rfl
@[simp] theorem modCore_jdev1 (s : Sys) (k : Nat) (f : Core → Core) : (s.modCore k f).jdev1 = s.jdev1 := rfl
@[simp] theorem modCore_dmas (s : Sys) (k : Nat) (f : Core → Core) : (s.modCore k f).dmas = s.dmas := rfl
@[simp] theorem modCore_tansy (s : Sys) (k : Nat) (f : Core → Core) : (s.modCore k f).tansy = s.tansy := rfl
@[simp] theorem modCore_tabs (s : Sys) (k : Nat) (f : Core → Core) : (s.modCore k f).tabs = s.tabs := rfl
@[simp] theorem modCore_seals (s : Sys) (k : Nat) (f : Core → Core) : (s.modCore k f).seals = s.seals := rfl
@[simp] theorem modCore_port (s : Sys) (k : Nat) (f : Core → Core) : (s.modCore k f).port = s.port := rfl
@[simp] theorem modCore_fab (s : Sys) (k : Nat) (f : Core → Core) : (s.modCore k f).fab = s.fab := rfl
@[simp] theorem modCore_pf (s : Sys) (k : Nat) (f : Core → Core) : (s.modCore k f).pf = s.pf := rfl
@[simp] theorem modCore_vfs (s : Sys) (k : Nat) (f : Core → Core) : (s.modCore k f).vfs = s.vfs := rfl
@[simp] theorem modCore_seqlLatch (s : Sys) (k : Nat) (f : Core → Core) : (s.modCore k f).seqlLatch = s.seqlLatch := rfl
@[simp] theorem modCore_timeUs (s : Sys) (k : Nat) (f : Core → Core) : (s.modCore k f).timeUs = s.timeUs := rfl
@[simp] theorem modCore_free (s : Sys) (k : Nat) (f : Core → Core) : (s.modCore k f).free = s.free := rfl

/-! ## setBank -/

@[simp] theorem setBank_l3 (s : Sys) (k b : Nat) (x : Ctx) : (s.setBank k b x).l3 = s.l3 := rfl
@[simp] theorem setBank_l3Err (s : Sys) (k b : Nat) (x : Ctx) : (s.setBank k b x).l3Err = s.l3Err := rfl
@[simp] theorem setBank_mem (s : Sys) (k b : Nat) (x : Ctx) : (s.setBank k b x).mem = s.mem := rfl
@[simp] theorem setBank_poison (s : Sys) (k b : Nat) (x : Ctx) : (s.setBank k b x).poison = s.poison := rfl
@[simp] theorem setBank_flips (s : Sys) (k b : Nat) (x : Ctx) : (s.setBank k b x).flips = s.flips := rfl
@[simp] theorem setBank_keyc (s : Sys) (k b : Nat) (x : Ctx) : (s.setBank k b x).keyc = s.keyc := rfl
@[simp] theorem setBank_dirs (s : Sys) (k b : Nat) (x : Ctx) : (s.setBank k b x).dirs = s.dirs := rfl
@[simp] theorem setBank_late (s : Sys) (k b : Nat) (x : Ctx) : (s.setBank k b x).late = s.late := rfl
@[simp] theorem setBank_tracker (s : Sys) (k b : Nat) (x : Ctx) : (s.setBank k b x).tracker = s.tracker := rfl
@[simp] theorem setBank_dirUse (s : Sys) (k b : Nat) (x : Ctx) : (s.setBank k b x).dirUse = s.dirUse := rfl
@[simp] theorem setBank_mcs (s : Sys) (k b : Nat) (x : Ctx) : (s.setBank k b x).mcs = s.mcs := rfl
@[simp] theorem setBank_host (s : Sys) (k b : Nat) (x : Ctx) : (s.setBank k b x).host = s.host := rfl
@[simp] theorem setBank_camp (s : Sys) (k b : Nat) (x : Ctx) : (s.setBank k b x).camp = s.camp := rfl
@[simp] theorem setBank_parts (s : Sys) (k b : Nat) (x : Ctx) : (s.setBank k b x).parts = s.parts := rfl
@[simp] theorem setBank_bus (s : Sys) (k b : Nat) (x : Ctx) : (s.setBank k b x).bus = s.bus := rfl
@[simp] theorem setBank_alloc (s : Sys) (k b : Nat) (x : Ctx) : (s.setBank k b x).alloc = s.alloc := rfl
@[simp] theorem setBank_j0up (s : Sys) (k b : Nat) (x : Ctx) : (s.setBank k b x).j0up = s.j0up := rfl
@[simp] theorem setBank_j1up (s : Sys) (k b : Nat) (x : Ctx) : (s.setBank k b x).j1up = s.j1up := rfl
@[simp] theorem setBank_jdev0 (s : Sys) (k b : Nat) (x : Ctx) : (s.setBank k b x).jdev0 = s.jdev0 := rfl
@[simp] theorem setBank_jdev1 (s : Sys) (k b : Nat) (x : Ctx) : (s.setBank k b x).jdev1 = s.jdev1 := rfl
@[simp] theorem setBank_dmas (s : Sys) (k b : Nat) (x : Ctx) : (s.setBank k b x).dmas = s.dmas := rfl
@[simp] theorem setBank_tansy (s : Sys) (k b : Nat) (x : Ctx) : (s.setBank k b x).tansy = s.tansy := rfl
@[simp] theorem setBank_tabs (s : Sys) (k b : Nat) (x : Ctx) : (s.setBank k b x).tabs = s.tabs := rfl
@[simp] theorem setBank_seals (s : Sys) (k b : Nat) (x : Ctx) : (s.setBank k b x).seals = s.seals := rfl
@[simp] theorem setBank_port (s : Sys) (k b : Nat) (x : Ctx) : (s.setBank k b x).port = s.port := rfl
@[simp] theorem setBank_fab (s : Sys) (k b : Nat) (x : Ctx) : (s.setBank k b x).fab = s.fab := rfl
@[simp] theorem setBank_pf (s : Sys) (k b : Nat) (x : Ctx) : (s.setBank k b x).pf = s.pf := rfl
@[simp] theorem setBank_vfs (s : Sys) (k b : Nat) (x : Ctx) : (s.setBank k b x).vfs = s.vfs := rfl
@[simp] theorem setBank_seqlLatch (s : Sys) (k b : Nat) (x : Ctx) : (s.setBank k b x).seqlLatch = s.seqlLatch := rfl
@[simp] theorem setBank_timeUs (s : Sys) (k b : Nat) (x : Ctx) : (s.setBank k b x).timeUs = s.timeUs := rfl
@[simp] theorem setBank_free (s : Sys) (k b : Nat) (x : Ctx) : (s.setBank k b x).free = s.free := rfl

/-! ## setL3 -/

@[simp] theorem setL3_cores (s : Sys) (c : Nat) (v : Cache) : (s.setL3 c v).cores = s.cores := rfl
@[simp] theorem setL3_l3 (s : Sys) (c : Nat) (v : Cache) : (s.setL3 c v).l3 = tset s.l3 c v := rfl
@[simp] theorem setL3_l3Err (s : Sys) (c : Nat) (v : Cache) : (s.setL3 c v).l3Err = s.l3Err := rfl
@[simp] theorem setL3_mem (s : Sys) (c : Nat) (v : Cache) : (s.setL3 c v).mem = s.mem := rfl
@[simp] theorem setL3_poison (s : Sys) (c : Nat) (v : Cache) : (s.setL3 c v).poison = s.poison := rfl
@[simp] theorem setL3_flips (s : Sys) (c : Nat) (v : Cache) : (s.setL3 c v).flips = s.flips := rfl
@[simp] theorem setL3_keyc (s : Sys) (c : Nat) (v : Cache) : (s.setL3 c v).keyc = s.keyc := rfl
@[simp] theorem setL3_dirs (s : Sys) (c : Nat) (v : Cache) : (s.setL3 c v).dirs = s.dirs := rfl
@[simp] theorem setL3_late (s : Sys) (c : Nat) (v : Cache) : (s.setL3 c v).late = s.late := rfl
@[simp] theorem setL3_tracker (s : Sys) (c : Nat) (v : Cache) : (s.setL3 c v).tracker = s.tracker := rfl
@[simp] theorem setL3_dirUse (s : Sys) (c : Nat) (v : Cache) : (s.setL3 c v).dirUse = s.dirUse := rfl
@[simp] theorem setL3_mcs (s : Sys) (c : Nat) (v : Cache) : (s.setL3 c v).mcs = s.mcs := rfl
@[simp] theorem setL3_host (s : Sys) (c : Nat) (v : Cache) : (s.setL3 c v).host = s.host := rfl
@[simp] theorem setL3_camp (s : Sys) (c : Nat) (v : Cache) : (s.setL3 c v).camp = s.camp := rfl
@[simp] theorem setL3_parts (s : Sys) (c : Nat) (v : Cache) : (s.setL3 c v).parts = s.parts := rfl
@[simp] theorem setL3_bus (s : Sys) (c : Nat) (v : Cache) : (s.setL3 c v).bus = s.bus := rfl
@[simp] theorem setL3_alloc (s : Sys) (c : Nat) (v : Cache) : (s.setL3 c v).alloc = s.alloc := rfl
@[simp] theorem setL3_j0up (s : Sys) (c : Nat) (v : Cache) : (s.setL3 c v).j0up = s.j0up := rfl
@[simp] theorem setL3_j1up (s : Sys) (c : Nat) (v : Cache) : (s.setL3 c v).j1up = s.j1up := rfl
@[simp] theorem setL3_jdev0 (s : Sys) (c : Nat) (v : Cache) : (s.setL3 c v).jdev0 = s.jdev0 := rfl
@[simp] theorem setL3_jdev1 (s : Sys) (c : Nat) (v : Cache) : (s.setL3 c v).jdev1 = s.jdev1 := rfl
@[simp] theorem setL3_dmas (s : Sys) (c : Nat) (v : Cache) : (s.setL3 c v).dmas = s.dmas := rfl
@[simp] theorem setL3_tansy (s : Sys) (c : Nat) (v : Cache) : (s.setL3 c v).tansy = s.tansy := rfl
@[simp] theorem setL3_tabs (s : Sys) (c : Nat) (v : Cache) : (s.setL3 c v).tabs = s.tabs := rfl
@[simp] theorem setL3_seals (s : Sys) (c : Nat) (v : Cache) : (s.setL3 c v).seals = s.seals := rfl
@[simp] theorem setL3_port (s : Sys) (c : Nat) (v : Cache) : (s.setL3 c v).port = s.port := rfl
@[simp] theorem setL3_fab (s : Sys) (c : Nat) (v : Cache) : (s.setL3 c v).fab = s.fab := rfl
@[simp] theorem setL3_pf (s : Sys) (c : Nat) (v : Cache) : (s.setL3 c v).pf = s.pf := rfl
@[simp] theorem setL3_vfs (s : Sys) (c : Nat) (v : Cache) : (s.setL3 c v).vfs = s.vfs := rfl
@[simp] theorem setL3_seqlLatch (s : Sys) (c : Nat) (v : Cache) : (s.setL3 c v).seqlLatch = s.seqlLatch := rfl
@[simp] theorem setL3_timeUs (s : Sys) (c : Nat) (v : Cache) : (s.setL3 c v).timeUs = s.timeUs := rfl
@[simp] theorem setL3_free (s : Sys) (c : Nat) (v : Cache) : (s.setL3 c v).free = s.free := rfl

/-! ## setSlot -/

@[simp] theorem setSlot_cores (s : Sys) (n : Nat) (v : Slot) : (s.setSlot n v).cores = s.cores := rfl
@[simp] theorem setSlot_l3 (s : Sys) (n : Nat) (v : Slot) : (s.setSlot n v).l3 = s.l3 := rfl
@[simp] theorem setSlot_l3Err (s : Sys) (n : Nat) (v : Slot) : (s.setSlot n v).l3Err = s.l3Err := rfl
@[simp] theorem setSlot_mem (s : Sys) (n : Nat) (v : Slot) : (s.setSlot n v).mem = s.mem := rfl
@[simp] theorem setSlot_poison (s : Sys) (n : Nat) (v : Slot) : (s.setSlot n v).poison = s.poison := rfl
@[simp] theorem setSlot_flips (s : Sys) (n : Nat) (v : Slot) : (s.setSlot n v).flips = s.flips := rfl
@[simp] theorem setSlot_keyc (s : Sys) (n : Nat) (v : Slot) : (s.setSlot n v).keyc = s.keyc := rfl
@[simp] theorem setSlot_dirs (s : Sys) (n : Nat) (v : Slot) : (s.setSlot n v).dirs = s.dirs := rfl
@[simp] theorem setSlot_late (s : Sys) (n : Nat) (v : Slot) : (s.setSlot n v).late = s.late := rfl
@[simp] theorem setSlot_tracker (s : Sys) (n : Nat) (v : Slot) : (s.setSlot n v).tracker = s.tracker := rfl
@[simp] theorem setSlot_dirUse (s : Sys) (n : Nat) (v : Slot) : (s.setSlot n v).dirUse = s.dirUse := rfl
@[simp] theorem setSlot_mcs (s : Sys) (n : Nat) (v : Slot) : (s.setSlot n v).mcs = s.mcs := rfl
@[simp] theorem setSlot_host (s : Sys) (n : Nat) (v : Slot) : (s.setSlot n v).host = s.host := rfl
@[simp] theorem setSlot_camp (s : Sys) (n : Nat) (v : Slot) : (s.setSlot n v).camp = s.camp := rfl
@[simp] theorem setSlot_parts (s : Sys) (n : Nat) (v : Slot) : (s.setSlot n v).parts = s.parts := rfl
@[simp] theorem setSlot_bus (s : Sys) (n : Nat) (v : Slot) : (s.setSlot n v).bus = s.bus := rfl
@[simp] theorem setSlot_alloc (s : Sys) (n : Nat) (v : Slot) : (s.setSlot n v).alloc = s.alloc := rfl
@[simp] theorem setSlot_j0up (s : Sys) (n : Nat) (v : Slot) : (s.setSlot n v).j0up = s.j0up := rfl
@[simp] theorem setSlot_j1up (s : Sys) (n : Nat) (v : Slot) : (s.setSlot n v).j1up = s.j1up := rfl
@[simp] theorem setSlot_jdev0 (s : Sys) (n : Nat) (v : Slot) : (s.setSlot n v).jdev0 = s.jdev0 := rfl
@[simp] theorem setSlot_jdev1 (s : Sys) (n : Nat) (v : Slot) : (s.setSlot n v).jdev1 = s.jdev1 := rfl
@[simp] theorem setSlot_dmas (s : Sys) (n : Nat) (v : Slot) : (s.setSlot n v).dmas = s.dmas := rfl
@[simp] theorem setSlot_tabs (s : Sys) (n : Nat) (v : Slot) : (s.setSlot n v).tabs = s.tabs := rfl
@[simp] theorem setSlot_seals (s : Sys) (n : Nat) (v : Slot) : (s.setSlot n v).seals = s.seals := rfl
@[simp] theorem setSlot_port (s : Sys) (n : Nat) (v : Slot) : (s.setSlot n v).port = s.port := rfl
@[simp] theorem setSlot_fab (s : Sys) (n : Nat) (v : Slot) : (s.setSlot n v).fab = s.fab := rfl
@[simp] theorem setSlot_pf (s : Sys) (n : Nat) (v : Slot) : (s.setSlot n v).pf = s.pf := rfl
@[simp] theorem setSlot_vfs (s : Sys) (n : Nat) (v : Slot) : (s.setSlot n v).vfs = s.vfs := rfl
@[simp] theorem setSlot_seqlLatch (s : Sys) (n : Nat) (v : Slot) : (s.setSlot n v).seqlLatch = s.seqlLatch := rfl
@[simp] theorem setSlot_timeUs (s : Sys) (n : Nat) (v : Slot) : (s.setSlot n v).timeUs = s.timeUs := rfl
@[simp] theorem setSlot_free (s : Sys) (n : Nat) (v : Slot) : (s.setSlot n v).free = s.free := rfl
@[simp] theorem setSlot_slots (s : Sys) (n : Nat) (v : Slot) : (s.setSlot n v).tansy.slots = tset s.tansy.slots n v := rfl

/-! ## setPair -/

@[simp] theorem setPair_cores (s : Sys) (p : Nat) (v : PairSt) : (s.setPair p v).cores = s.cores := rfl
@[simp] theorem setPair_l3 (s : Sys) (p : Nat) (v : PairSt) : (s.setPair p v).l3 = s.l3 := rfl
@[simp] theorem setPair_l3Err (s : Sys) (p : Nat) (v : PairSt) : (s.setPair p v).l3Err = s.l3Err := rfl
@[simp] theorem setPair_mem (s : Sys) (p : Nat) (v : PairSt) : (s.setPair p v).mem = s.mem := rfl
@[simp] theorem setPair_poison (s : Sys) (p : Nat) (v : PairSt) : (s.setPair p v).poison = s.poison := rfl
@[simp] theorem setPair_flips (s : Sys) (p : Nat) (v : PairSt) : (s.setPair p v).flips = s.flips := rfl
@[simp] theorem setPair_keyc (s : Sys) (p : Nat) (v : PairSt) : (s.setPair p v).keyc = s.keyc := rfl
@[simp] theorem setPair_dirs (s : Sys) (p : Nat) (v : PairSt) : (s.setPair p v).dirs = s.dirs := rfl
@[simp] theorem setPair_late (s : Sys) (p : Nat) (v : PairSt) : (s.setPair p v).late = s.late := rfl
@[simp] theorem setPair_tracker (s : Sys) (p : Nat) (v : PairSt) : (s.setPair p v).tracker = s.tracker := rfl
@[simp] theorem setPair_dirUse (s : Sys) (p : Nat) (v : PairSt) : (s.setPair p v).dirUse = s.dirUse := rfl
@[simp] theorem setPair_mcs (s : Sys) (p : Nat) (v : PairSt) : (s.setPair p v).mcs = s.mcs := rfl
@[simp] theorem setPair_host (s : Sys) (p : Nat) (v : PairSt) : (s.setPair p v).host = s.host := rfl
@[simp] theorem setPair_camp (s : Sys) (p : Nat) (v : PairSt) : (s.setPair p v).camp = s.camp := rfl
@[simp] theorem setPair_parts (s : Sys) (p : Nat) (v : PairSt) : (s.setPair p v).parts = s.parts := rfl
@[simp] theorem setPair_bus (s : Sys) (p : Nat) (v : PairSt) : (s.setPair p v).bus = s.bus := rfl
@[simp] theorem setPair_alloc (s : Sys) (p : Nat) (v : PairSt) : (s.setPair p v).alloc = s.alloc := rfl
@[simp] theorem setPair_j0up (s : Sys) (p : Nat) (v : PairSt) : (s.setPair p v).j0up = s.j0up := rfl
@[simp] theorem setPair_j1up (s : Sys) (p : Nat) (v : PairSt) : (s.setPair p v).j1up = s.j1up := rfl
@[simp] theorem setPair_jdev0 (s : Sys) (p : Nat) (v : PairSt) : (s.setPair p v).jdev0 = s.jdev0 := rfl
@[simp] theorem setPair_jdev1 (s : Sys) (p : Nat) (v : PairSt) : (s.setPair p v).jdev1 = s.jdev1 := rfl
@[simp] theorem setPair_dmas (s : Sys) (p : Nat) (v : PairSt) : (s.setPair p v).dmas = s.dmas := rfl
@[simp] theorem setPair_tansy (s : Sys) (p : Nat) (v : PairSt) : (s.setPair p v).tansy = s.tansy := rfl
@[simp] theorem setPair_tabs (s : Sys) (p : Nat) (v : PairSt) : (s.setPair p v).tabs = s.tabs := rfl
@[simp] theorem setPair_seals (s : Sys) (p : Nat) (v : PairSt) : (s.setPair p v).seals = s.seals := rfl
@[simp] theorem setPair_port (s : Sys) (p : Nat) (v : PairSt) : (s.setPair p v).port = s.port := rfl
@[simp] theorem setPair_pf (s : Sys) (p : Nat) (v : PairSt) : (s.setPair p v).pf = s.pf := rfl
@[simp] theorem setPair_vfs (s : Sys) (p : Nat) (v : PairSt) : (s.setPair p v).vfs = s.vfs := rfl
@[simp] theorem setPair_seqlLatch (s : Sys) (p : Nat) (v : PairSt) : (s.setPair p v).seqlLatch = s.seqlLatch := rfl
@[simp] theorem setPair_timeUs (s : Sys) (p : Nat) (v : PairSt) : (s.setPair p v).timeUs = s.timeUs := rfl
@[simp] theorem setPair_free (s : Sys) (p : Nat) (v : PairSt) : (s.setPair p v).free = s.free := rfl
@[simp] theorem setPair_pairs (s : Sys) (p : Nat) (v : PairSt) : (s.setPair p v).fab.pairs = tset s.fab.pairs p v := rfl
@[simp] theorem setPair_links (s : Sys) (p : Nat) (v : PairSt) : (s.setPair p v).fab.links = s.fab.links := rfl
@[simp] theorem setPair_peers (s : Sys) (p : Nat) (v : PairSt) : (s.setPair p v).fab.peers = s.fab.peers := rfl
@[simp] theorem setPair_held (s : Sys) (p : Nat) (v : PairSt) : (s.setPair p v).fab.held = s.fab.held := rfl
@[simp] theorem setPair_paths (s : Sys) (p : Nat) (v : PairSt) : (s.setPair p v).fab.paths = s.fab.paths := rfl
@[simp] theorem setPair_cpDrops (s : Sys) (p : Nat) (v : PairSt) : (s.setPair p v).fab.cpDrops = s.fab.cpDrops := rfl

/-! ## setEpoch -/

@[simp] theorem setEpoch_cores (s : Sys) (p : Nat) (v : Bool × BitVec 16) : (s.setEpoch p v).cores = s.cores := rfl
@[simp] theorem setEpoch_l3 (s : Sys) (p : Nat) (v : Bool × BitVec 16) : (s.setEpoch p v).l3 = s.l3 := rfl
@[simp] theorem setEpoch_l3Err (s : Sys) (p : Nat) (v : Bool × BitVec 16) : (s.setEpoch p v).l3Err = s.l3Err := rfl
@[simp] theorem setEpoch_mem (s : Sys) (p : Nat) (v : Bool × BitVec 16) : (s.setEpoch p v).mem = s.mem := rfl
@[simp] theorem setEpoch_poison (s : Sys) (p : Nat) (v : Bool × BitVec 16) : (s.setEpoch p v).poison = s.poison := rfl
@[simp] theorem setEpoch_flips (s : Sys) (p : Nat) (v : Bool × BitVec 16) : (s.setEpoch p v).flips = s.flips := rfl
@[simp] theorem setEpoch_keyc (s : Sys) (p : Nat) (v : Bool × BitVec 16) : (s.setEpoch p v).keyc = s.keyc := rfl
@[simp] theorem setEpoch_dirs (s : Sys) (p : Nat) (v : Bool × BitVec 16) : (s.setEpoch p v).dirs = s.dirs := rfl
@[simp] theorem setEpoch_late (s : Sys) (p : Nat) (v : Bool × BitVec 16) : (s.setEpoch p v).late = s.late := rfl
@[simp] theorem setEpoch_tracker (s : Sys) (p : Nat) (v : Bool × BitVec 16) : (s.setEpoch p v).tracker = s.tracker := rfl
@[simp] theorem setEpoch_dirUse (s : Sys) (p : Nat) (v : Bool × BitVec 16) : (s.setEpoch p v).dirUse = s.dirUse := rfl
@[simp] theorem setEpoch_mcs (s : Sys) (p : Nat) (v : Bool × BitVec 16) : (s.setEpoch p v).mcs = s.mcs := rfl
@[simp] theorem setEpoch_host (s : Sys) (p : Nat) (v : Bool × BitVec 16) : (s.setEpoch p v).host = s.host := rfl
@[simp] theorem setEpoch_camp (s : Sys) (p : Nat) (v : Bool × BitVec 16) : (s.setEpoch p v).camp = s.camp := rfl
@[simp] theorem setEpoch_parts (s : Sys) (p : Nat) (v : Bool × BitVec 16) : (s.setEpoch p v).parts = s.parts := rfl
@[simp] theorem setEpoch_bus (s : Sys) (p : Nat) (v : Bool × BitVec 16) : (s.setEpoch p v).bus = s.bus := rfl
@[simp] theorem setEpoch_alloc (s : Sys) (p : Nat) (v : Bool × BitVec 16) : (s.setEpoch p v).alloc = s.alloc := rfl
@[simp] theorem setEpoch_j0up (s : Sys) (p : Nat) (v : Bool × BitVec 16) : (s.setEpoch p v).j0up = s.j0up := rfl
@[simp] theorem setEpoch_j1up (s : Sys) (p : Nat) (v : Bool × BitVec 16) : (s.setEpoch p v).j1up = s.j1up := rfl
@[simp] theorem setEpoch_jdev0 (s : Sys) (p : Nat) (v : Bool × BitVec 16) : (s.setEpoch p v).jdev0 = s.jdev0 := rfl
@[simp] theorem setEpoch_jdev1 (s : Sys) (p : Nat) (v : Bool × BitVec 16) : (s.setEpoch p v).jdev1 = s.jdev1 := rfl
@[simp] theorem setEpoch_dmas (s : Sys) (p : Nat) (v : Bool × BitVec 16) : (s.setEpoch p v).dmas = s.dmas := rfl
@[simp] theorem setEpoch_tansy (s : Sys) (p : Nat) (v : Bool × BitVec 16) : (s.setEpoch p v).tansy = s.tansy := rfl
@[simp] theorem setEpoch_tabs (s : Sys) (p : Nat) (v : Bool × BitVec 16) : (s.setEpoch p v).tabs = s.tabs := rfl
@[simp] theorem setEpoch_seals (s : Sys) (p : Nat) (v : Bool × BitVec 16) : (s.setEpoch p v).seals = s.seals := rfl
@[simp] theorem setEpoch_port (s : Sys) (p : Nat) (v : Bool × BitVec 16) : (s.setEpoch p v).port = s.port := rfl
@[simp] theorem setEpoch_pf (s : Sys) (p : Nat) (v : Bool × BitVec 16) : (s.setEpoch p v).pf = s.pf := rfl
@[simp] theorem setEpoch_vfs (s : Sys) (p : Nat) (v : Bool × BitVec 16) : (s.setEpoch p v).vfs = s.vfs := rfl
@[simp] theorem setEpoch_seqlLatch (s : Sys) (p : Nat) (v : Bool × BitVec 16) : (s.setEpoch p v).seqlLatch = s.seqlLatch := rfl
@[simp] theorem setEpoch_timeUs (s : Sys) (p : Nat) (v : Bool × BitVec 16) : (s.setEpoch p v).timeUs = s.timeUs := rfl
@[simp] theorem setEpoch_free (s : Sys) (p : Nat) (v : Bool × BitVec 16) : (s.setEpoch p v).free = s.free := rfl
@[simp] theorem setEpoch_peers (s : Sys) (p : Nat) (v : Bool × BitVec 16) :
    (s.setEpoch p v).fab.peers = tset s.fab.peers p v := rfl
@[simp] theorem setEpoch_links (s : Sys) (p : Nat) (v : Bool × BitVec 16) : (s.setEpoch p v).fab.links = s.fab.links := rfl
@[simp] theorem setEpoch_pairs (s : Sys) (p : Nat) (v : Bool × BitVec 16) : (s.setEpoch p v).fab.pairs = s.fab.pairs := rfl
@[simp] theorem setEpoch_held (s : Sys) (p : Nat) (v : Bool × BitVec 16) : (s.setEpoch p v).fab.held = s.fab.held := rfl
@[simp] theorem setEpoch_paths (s : Sys) (p : Nat) (v : Bool × BitVec 16) : (s.setEpoch p v).fab.paths = s.fab.paths := rfl
@[simp] theorem setEpoch_cpDrops (s : Sys) (p : Nat) (v : Bool × BitVec 16) :
    (s.setEpoch p v).fab.cpDrops = s.fab.cpDrops := rfl

/-! ## setChan -/

@[simp] theorem setChan_cores (s : Sys) (q n : Nat) (v : DChan) : (s.setChan q n v).cores = s.cores := rfl
@[simp] theorem setChan_l3 (s : Sys) (q n : Nat) (v : DChan) : (s.setChan q n v).l3 = s.l3 := rfl
@[simp] theorem setChan_l3Err (s : Sys) (q n : Nat) (v : DChan) : (s.setChan q n v).l3Err = s.l3Err := rfl
@[simp] theorem setChan_mem (s : Sys) (q n : Nat) (v : DChan) : (s.setChan q n v).mem = s.mem := rfl
@[simp] theorem setChan_poison (s : Sys) (q n : Nat) (v : DChan) : (s.setChan q n v).poison = s.poison := rfl
@[simp] theorem setChan_flips (s : Sys) (q n : Nat) (v : DChan) : (s.setChan q n v).flips = s.flips := rfl
@[simp] theorem setChan_keyc (s : Sys) (q n : Nat) (v : DChan) : (s.setChan q n v).keyc = s.keyc := rfl
@[simp] theorem setChan_dirs (s : Sys) (q n : Nat) (v : DChan) : (s.setChan q n v).dirs = s.dirs := rfl
@[simp] theorem setChan_late (s : Sys) (q n : Nat) (v : DChan) : (s.setChan q n v).late = s.late := rfl
@[simp] theorem setChan_tracker (s : Sys) (q n : Nat) (v : DChan) : (s.setChan q n v).tracker = s.tracker := rfl
@[simp] theorem setChan_dirUse (s : Sys) (q n : Nat) (v : DChan) : (s.setChan q n v).dirUse = s.dirUse := rfl
@[simp] theorem setChan_mcs (s : Sys) (q n : Nat) (v : DChan) : (s.setChan q n v).mcs = s.mcs := rfl
@[simp] theorem setChan_host (s : Sys) (q n : Nat) (v : DChan) : (s.setChan q n v).host = s.host := rfl
@[simp] theorem setChan_camp (s : Sys) (q n : Nat) (v : DChan) : (s.setChan q n v).camp = s.camp := rfl
@[simp] theorem setChan_parts (s : Sys) (q n : Nat) (v : DChan) : (s.setChan q n v).parts = s.parts := rfl
@[simp] theorem setChan_bus (s : Sys) (q n : Nat) (v : DChan) : (s.setChan q n v).bus = s.bus := rfl
@[simp] theorem setChan_alloc (s : Sys) (q n : Nat) (v : DChan) : (s.setChan q n v).alloc = s.alloc := rfl
@[simp] theorem setChan_j0up (s : Sys) (q n : Nat) (v : DChan) : (s.setChan q n v).j0up = s.j0up := rfl
@[simp] theorem setChan_j1up (s : Sys) (q n : Nat) (v : DChan) : (s.setChan q n v).j1up = s.j1up := rfl
@[simp] theorem setChan_jdev0 (s : Sys) (q n : Nat) (v : DChan) : (s.setChan q n v).jdev0 = s.jdev0 := rfl
@[simp] theorem setChan_jdev1 (s : Sys) (q n : Nat) (v : DChan) : (s.setChan q n v).jdev1 = s.jdev1 := rfl
@[simp] theorem setChan_dmas (s : Sys) (q n : Nat) (v : DChan) :
    (s.setChan q n v).dmas = tset s.dmas q { s.dma q with chans := tset (s.dma q).chans n v } := rfl
@[simp] theorem setChan_tansy (s : Sys) (q n : Nat) (v : DChan) : (s.setChan q n v).tansy = s.tansy := rfl
@[simp] theorem setChan_tabs (s : Sys) (q n : Nat) (v : DChan) : (s.setChan q n v).tabs = s.tabs := rfl
@[simp] theorem setChan_seals (s : Sys) (q n : Nat) (v : DChan) : (s.setChan q n v).seals = s.seals := rfl
@[simp] theorem setChan_port (s : Sys) (q n : Nat) (v : DChan) : (s.setChan q n v).port = s.port := rfl
@[simp] theorem setChan_fab (s : Sys) (q n : Nat) (v : DChan) : (s.setChan q n v).fab = s.fab := rfl
@[simp] theorem setChan_pf (s : Sys) (q n : Nat) (v : DChan) : (s.setChan q n v).pf = s.pf := rfl
@[simp] theorem setChan_vfs (s : Sys) (q n : Nat) (v : DChan) : (s.setChan q n v).vfs = s.vfs := rfl
@[simp] theorem setChan_seqlLatch (s : Sys) (q n : Nat) (v : DChan) : (s.setChan q n v).seqlLatch = s.seqlLatch := rfl
@[simp] theorem setChan_timeUs (s : Sys) (q n : Nat) (v : DChan) : (s.setChan q n v).timeUs = s.timeUs := rfl
@[simp] theorem setChan_free (s : Sys) (q n : Nat) (v : DChan) : (s.setChan q n v).free = s.free := rfl

/-! ## setQp -/

@[simp] theorem setQp_cores (s : Sys) (p q : Nat) (v : Qp) : (s.setQp p q v).cores = s.cores := rfl
@[simp] theorem setQp_l3 (s : Sys) (p q : Nat) (v : Qp) : (s.setQp p q v).l3 = s.l3 := rfl
@[simp] theorem setQp_l3Err (s : Sys) (p q : Nat) (v : Qp) : (s.setQp p q v).l3Err = s.l3Err := rfl
@[simp] theorem setQp_mem (s : Sys) (p q : Nat) (v : Qp) : (s.setQp p q v).mem = s.mem := rfl
@[simp] theorem setQp_poison (s : Sys) (p q : Nat) (v : Qp) : (s.setQp p q v).poison = s.poison := rfl
@[simp] theorem setQp_flips (s : Sys) (p q : Nat) (v : Qp) : (s.setQp p q v).flips = s.flips := rfl
@[simp] theorem setQp_keyc (s : Sys) (p q : Nat) (v : Qp) : (s.setQp p q v).keyc = s.keyc := rfl
@[simp] theorem setQp_dirs (s : Sys) (p q : Nat) (v : Qp) : (s.setQp p q v).dirs = s.dirs := rfl
@[simp] theorem setQp_late (s : Sys) (p q : Nat) (v : Qp) : (s.setQp p q v).late = s.late := rfl
@[simp] theorem setQp_tracker (s : Sys) (p q : Nat) (v : Qp) : (s.setQp p q v).tracker = s.tracker := rfl
@[simp] theorem setQp_dirUse (s : Sys) (p q : Nat) (v : Qp) : (s.setQp p q v).dirUse = s.dirUse := rfl
@[simp] theorem setQp_mcs (s : Sys) (p q : Nat) (v : Qp) : (s.setQp p q v).mcs = s.mcs := rfl
@[simp] theorem setQp_host (s : Sys) (p q : Nat) (v : Qp) : (s.setQp p q v).host = s.host := rfl
@[simp] theorem setQp_camp (s : Sys) (p q : Nat) (v : Qp) : (s.setQp p q v).camp = s.camp := rfl
@[simp] theorem setQp_parts (s : Sys) (p q : Nat) (v : Qp) : (s.setQp p q v).parts = s.parts := rfl
@[simp] theorem setQp_bus (s : Sys) (p q : Nat) (v : Qp) : (s.setQp p q v).bus = s.bus := rfl
@[simp] theorem setQp_alloc (s : Sys) (p q : Nat) (v : Qp) : (s.setQp p q v).alloc = s.alloc := rfl
@[simp] theorem setQp_j0up (s : Sys) (p q : Nat) (v : Qp) : (s.setQp p q v).j0up = s.j0up := rfl
@[simp] theorem setQp_j1up (s : Sys) (p q : Nat) (v : Qp) : (s.setQp p q v).j1up = s.j1up := rfl
@[simp] theorem setQp_jdev0 (s : Sys) (p q : Nat) (v : Qp) : (s.setQp p q v).jdev0 = s.jdev0 := rfl
@[simp] theorem setQp_jdev1 (s : Sys) (p q : Nat) (v : Qp) : (s.setQp p q v).jdev1 = s.jdev1 := rfl
@[simp] theorem setQp_dmas (s : Sys) (p q : Nat) (v : Qp) : (s.setQp p q v).dmas = s.dmas := rfl
@[simp] theorem setQp_tansy (s : Sys) (p q : Nat) (v : Qp) : (s.setQp p q v).tansy = s.tansy := rfl
@[simp] theorem setQp_tabs (s : Sys) (p q : Nat) (v : Qp) : (s.setQp p q v).tabs = s.tabs := rfl
@[simp] theorem setQp_seals (s : Sys) (p q : Nat) (v : Qp) : (s.setQp p q v).seals = s.seals := rfl
@[simp] theorem setQp_port (s : Sys) (p q : Nat) (v : Qp) : (s.setQp p q v).port = s.port := rfl
@[simp] theorem setQp_fab (s : Sys) (p q : Nat) (v : Qp) : (s.setQp p q v).fab = s.fab := rfl
@[simp] theorem setQp_pf (s : Sys) (p q : Nat) (v : Qp) : (s.setQp p q v).pf = s.pf := rfl
@[simp] theorem setQp_vfs (s : Sys) (p q : Nat) (v : Qp) :
    (s.setQp p q v).vfs = tset s.vfs p { s.vf p with qps := tset (s.vf p).qps q v } := rfl
@[simp] theorem setQp_seqlLatch (s : Sys) (p q : Nat) (v : Qp) : (s.setQp p q v).seqlLatch = s.seqlLatch := rfl
@[simp] theorem setQp_timeUs (s : Sys) (p q : Nat) (v : Qp) : (s.setQp p q v).timeUs = s.timeUs := rfl
@[simp] theorem setQp_free (s : Sys) (p q : Nat) (v : Qp) : (s.setQp p q v).free = s.free := rfl

/-! ## setPosting -/

@[simp] theorem setPosting_cores (s : Sys) (q n : Nat) (v : Posting) : (s.setPosting q n v).cores = s.cores := rfl
@[simp] theorem setPosting_l3 (s : Sys) (q n : Nat) (v : Posting) : (s.setPosting q n v).l3 = s.l3 := rfl
@[simp] theorem setPosting_l3Err (s : Sys) (q n : Nat) (v : Posting) : (s.setPosting q n v).l3Err = s.l3Err := rfl
@[simp] theorem setPosting_mem (s : Sys) (q n : Nat) (v : Posting) : (s.setPosting q n v).mem = s.mem := rfl
@[simp] theorem setPosting_poison (s : Sys) (q n : Nat) (v : Posting) : (s.setPosting q n v).poison = s.poison := rfl
@[simp] theorem setPosting_flips (s : Sys) (q n : Nat) (v : Posting) : (s.setPosting q n v).flips = s.flips := rfl
@[simp] theorem setPosting_keyc (s : Sys) (q n : Nat) (v : Posting) : (s.setPosting q n v).keyc = s.keyc := rfl
@[simp] theorem setPosting_dirs (s : Sys) (q n : Nat) (v : Posting) : (s.setPosting q n v).dirs = s.dirs := rfl
@[simp] theorem setPosting_late (s : Sys) (q n : Nat) (v : Posting) : (s.setPosting q n v).late = s.late := rfl
@[simp] theorem setPosting_tracker (s : Sys) (q n : Nat) (v : Posting) : (s.setPosting q n v).tracker = s.tracker := rfl
@[simp] theorem setPosting_dirUse (s : Sys) (q n : Nat) (v : Posting) : (s.setPosting q n v).dirUse = s.dirUse := rfl
@[simp] theorem setPosting_mcs (s : Sys) (q n : Nat) (v : Posting) : (s.setPosting q n v).mcs = s.mcs := rfl
@[simp] theorem setPosting_host (s : Sys) (q n : Nat) (v : Posting) : (s.setPosting q n v).host = s.host := rfl
@[simp] theorem setPosting_camp (s : Sys) (q n : Nat) (v : Posting) : (s.setPosting q n v).camp = s.camp := rfl
@[simp] theorem setPosting_parts (s : Sys) (q n : Nat) (v : Posting) : (s.setPosting q n v).parts = s.parts := rfl
@[simp] theorem setPosting_bus (s : Sys) (q n : Nat) (v : Posting) :
    (s.setPosting q n v).bus = tset s.bus q { s.bu q with posts := tset (s.bu q).posts n v } := rfl
@[simp] theorem setPosting_alloc (s : Sys) (q n : Nat) (v : Posting) : (s.setPosting q n v).alloc = s.alloc := rfl
@[simp] theorem setPosting_j0up (s : Sys) (q n : Nat) (v : Posting) : (s.setPosting q n v).j0up = s.j0up := rfl
@[simp] theorem setPosting_j1up (s : Sys) (q n : Nat) (v : Posting) : (s.setPosting q n v).j1up = s.j1up := rfl
@[simp] theorem setPosting_jdev0 (s : Sys) (q n : Nat) (v : Posting) : (s.setPosting q n v).jdev0 = s.jdev0 := rfl
@[simp] theorem setPosting_jdev1 (s : Sys) (q n : Nat) (v : Posting) : (s.setPosting q n v).jdev1 = s.jdev1 := rfl
@[simp] theorem setPosting_dmas (s : Sys) (q n : Nat) (v : Posting) : (s.setPosting q n v).dmas = s.dmas := rfl
@[simp] theorem setPosting_tansy (s : Sys) (q n : Nat) (v : Posting) : (s.setPosting q n v).tansy = s.tansy := rfl
@[simp] theorem setPosting_tabs (s : Sys) (q n : Nat) (v : Posting) : (s.setPosting q n v).tabs = s.tabs := rfl
@[simp] theorem setPosting_seals (s : Sys) (q n : Nat) (v : Posting) : (s.setPosting q n v).seals = s.seals := rfl
@[simp] theorem setPosting_port (s : Sys) (q n : Nat) (v : Posting) : (s.setPosting q n v).port = s.port := rfl
@[simp] theorem setPosting_fab (s : Sys) (q n : Nat) (v : Posting) : (s.setPosting q n v).fab = s.fab := rfl
@[simp] theorem setPosting_pf (s : Sys) (q n : Nat) (v : Posting) : (s.setPosting q n v).pf = s.pf := rfl
@[simp] theorem setPosting_vfs (s : Sys) (q n : Nat) (v : Posting) : (s.setPosting q n v).vfs = s.vfs := rfl
@[simp] theorem setPosting_seqlLatch (s : Sys) (q n : Nat) (v : Posting) : (s.setPosting q n v).seqlLatch = s.seqlLatch := rfl
@[simp] theorem setPosting_timeUs (s : Sys) (q n : Nat) (v : Posting) : (s.setPosting q n v).timeUs = s.timeUs := rfl
@[simp] theorem setPosting_free (s : Sys) (q n : Nat) (v : Posting) : (s.setPosting q n v).free = s.free := rfl

/-! ## unflip -/

@[simp] theorem unflip_cores (s : Sys) (c : Nat) : (s.unflip c).cores = s.cores := rfl
@[simp] theorem unflip_l3 (s : Sys) (c : Nat) : (s.unflip c).l3 = s.l3 := rfl
@[simp] theorem unflip_l3Err (s : Sys) (c : Nat) : (s.unflip c).l3Err = s.l3Err := rfl
@[simp] theorem unflip_mem (s : Sys) (c : Nat) : (s.unflip c).mem = s.mem := rfl
@[simp] theorem unflip_poison (s : Sys) (c : Nat) : (s.unflip c).poison = s.poison := rfl
@[simp] theorem unflip_flips (s : Sys) (c : Nat) : (s.unflip c).flips = terase s.flips c := rfl
@[simp] theorem unflip_keyc (s : Sys) (c : Nat) : (s.unflip c).keyc = s.keyc := rfl
@[simp] theorem unflip_dirs (s : Sys) (c : Nat) : (s.unflip c).dirs = s.dirs := rfl
@[simp] theorem unflip_late (s : Sys) (c : Nat) : (s.unflip c).late = s.late := rfl
@[simp] theorem unflip_tracker (s : Sys) (c : Nat) : (s.unflip c).tracker = s.tracker := rfl
@[simp] theorem unflip_dirUse (s : Sys) (c : Nat) : (s.unflip c).dirUse = s.dirUse := rfl
@[simp] theorem unflip_mcs (s : Sys) (c : Nat) : (s.unflip c).mcs = s.mcs := rfl
@[simp] theorem unflip_host (s : Sys) (c : Nat) : (s.unflip c).host = s.host := rfl
@[simp] theorem unflip_camp (s : Sys) (c : Nat) : (s.unflip c).camp = s.camp := rfl
@[simp] theorem unflip_parts (s : Sys) (c : Nat) : (s.unflip c).parts = s.parts := rfl
@[simp] theorem unflip_bus (s : Sys) (c : Nat) : (s.unflip c).bus = s.bus := rfl
@[simp] theorem unflip_alloc (s : Sys) (c : Nat) : (s.unflip c).alloc = s.alloc := rfl
@[simp] theorem unflip_j0up (s : Sys) (c : Nat) : (s.unflip c).j0up = s.j0up := rfl
@[simp] theorem unflip_j1up (s : Sys) (c : Nat) : (s.unflip c).j1up = s.j1up := rfl
@[simp] theorem unflip_jdev0 (s : Sys) (c : Nat) : (s.unflip c).jdev0 = s.jdev0 := rfl
@[simp] theorem unflip_jdev1 (s : Sys) (c : Nat) : (s.unflip c).jdev1 = s.jdev1 := rfl
@[simp] theorem unflip_dmas (s : Sys) (c : Nat) : (s.unflip c).dmas = s.dmas := rfl
@[simp] theorem unflip_tansy (s : Sys) (c : Nat) : (s.unflip c).tansy = s.tansy := rfl
@[simp] theorem unflip_tabs (s : Sys) (c : Nat) : (s.unflip c).tabs = s.tabs := rfl
@[simp] theorem unflip_seals (s : Sys) (c : Nat) : (s.unflip c).seals = s.seals := rfl
@[simp] theorem unflip_port (s : Sys) (c : Nat) : (s.unflip c).port = s.port := rfl
@[simp] theorem unflip_fab (s : Sys) (c : Nat) : (s.unflip c).fab = s.fab := rfl
@[simp] theorem unflip_pf (s : Sys) (c : Nat) : (s.unflip c).pf = s.pf := rfl
@[simp] theorem unflip_vfs (s : Sys) (c : Nat) : (s.unflip c).vfs = s.vfs := rfl
@[simp] theorem unflip_seqlLatch (s : Sys) (c : Nat) : (s.unflip c).seqlLatch = s.seqlLatch := rfl
@[simp] theorem unflip_timeUs (s : Sys) (c : Nat) : (s.unflip c).timeUs = s.timeUs := rfl
@[simp] theorem unflip_free (s : Sys) (c : Nat) : (s.unflip c).free = s.free := rfl

/-! ## setPoison -/

@[simp] theorem setPoison_cores (s : Sys) (c : Nat) (b : Bool) : (s.setPoison c b).cores = s.cores := rfl
@[simp] theorem setPoison_l3 (s : Sys) (c : Nat) (b : Bool) : (s.setPoison c b).l3 = s.l3 := rfl
@[simp] theorem setPoison_l3Err (s : Sys) (c : Nat) (b : Bool) : (s.setPoison c b).l3Err = s.l3Err := rfl
@[simp] theorem setPoison_mem (s : Sys) (c : Nat) (b : Bool) : (s.setPoison c b).mem = s.mem := rfl
@[simp] theorem setPoison_poison (s : Sys) (c : Nat) (b : Bool) :
    (s.setPoison c b).poison = if b then ninsert s.poison c else nerase s.poison c := rfl
@[simp] theorem setPoison_flips (s : Sys) (c : Nat) (b : Bool) : (s.setPoison c b).flips = s.flips := rfl
@[simp] theorem setPoison_keyc (s : Sys) (c : Nat) (b : Bool) : (s.setPoison c b).keyc = s.keyc := rfl
@[simp] theorem setPoison_dirs (s : Sys) (c : Nat) (b : Bool) : (s.setPoison c b).dirs = s.dirs := rfl
@[simp] theorem setPoison_late (s : Sys) (c : Nat) (b : Bool) : (s.setPoison c b).late = s.late := rfl
@[simp] theorem setPoison_tracker (s : Sys) (c : Nat) (b : Bool) : (s.setPoison c b).tracker = s.tracker := rfl
@[simp] theorem setPoison_dirUse (s : Sys) (c : Nat) (b : Bool) : (s.setPoison c b).dirUse = s.dirUse := rfl
@[simp] theorem setPoison_mcs (s : Sys) (c : Nat) (b : Bool) : (s.setPoison c b).mcs = s.mcs := rfl
@[simp] theorem setPoison_host (s : Sys) (c : Nat) (b : Bool) : (s.setPoison c b).host = s.host := rfl
@[simp] theorem setPoison_camp (s : Sys) (c : Nat) (b : Bool) : (s.setPoison c b).camp = s.camp := rfl
@[simp] theorem setPoison_parts (s : Sys) (c : Nat) (b : Bool) : (s.setPoison c b).parts = s.parts := rfl
@[simp] theorem setPoison_bus (s : Sys) (c : Nat) (b : Bool) : (s.setPoison c b).bus = s.bus := rfl
@[simp] theorem setPoison_alloc (s : Sys) (c : Nat) (b : Bool) : (s.setPoison c b).alloc = s.alloc := rfl
@[simp] theorem setPoison_j0up (s : Sys) (c : Nat) (b : Bool) : (s.setPoison c b).j0up = s.j0up := rfl
@[simp] theorem setPoison_j1up (s : Sys) (c : Nat) (b : Bool) : (s.setPoison c b).j1up = s.j1up := rfl
@[simp] theorem setPoison_jdev0 (s : Sys) (c : Nat) (b : Bool) : (s.setPoison c b).jdev0 = s.jdev0 := rfl
@[simp] theorem setPoison_jdev1 (s : Sys) (c : Nat) (b : Bool) : (s.setPoison c b).jdev1 = s.jdev1 := rfl
@[simp] theorem setPoison_dmas (s : Sys) (c : Nat) (b : Bool) : (s.setPoison c b).dmas = s.dmas := rfl
@[simp] theorem setPoison_tansy (s : Sys) (c : Nat) (b : Bool) : (s.setPoison c b).tansy = s.tansy := rfl
@[simp] theorem setPoison_tabs (s : Sys) (c : Nat) (b : Bool) : (s.setPoison c b).tabs = s.tabs := rfl
@[simp] theorem setPoison_seals (s : Sys) (c : Nat) (b : Bool) : (s.setPoison c b).seals = s.seals := rfl
@[simp] theorem setPoison_port (s : Sys) (c : Nat) (b : Bool) : (s.setPoison c b).port = s.port := rfl
@[simp] theorem setPoison_fab (s : Sys) (c : Nat) (b : Bool) : (s.setPoison c b).fab = s.fab := rfl
@[simp] theorem setPoison_pf (s : Sys) (c : Nat) (b : Bool) : (s.setPoison c b).pf = s.pf := rfl
@[simp] theorem setPoison_vfs (s : Sys) (c : Nat) (b : Bool) : (s.setPoison c b).vfs = s.vfs := rfl
@[simp] theorem setPoison_seqlLatch (s : Sys) (c : Nat) (b : Bool) : (s.setPoison c b).seqlLatch = s.seqlLatch := rfl
@[simp] theorem setPoison_timeUs (s : Sys) (c : Nat) (b : Bool) : (s.setPoison c b).timeUs = s.timeUs := rfl
@[simp] theorem setPoison_free (s : Sys) (c : Nat) (b : Bool) : (s.setPoison c b).free = s.free := rfl

/-! ## dropKey -/

@[simp] theorem dropKey_cores (s : Sys) (f : Nat) : (s.dropKey f).cores = s.cores := rfl
@[simp] theorem dropKey_l3 (s : Sys) (f : Nat) : (s.dropKey f).l3 = s.l3 := rfl
@[simp] theorem dropKey_l3Err (s : Sys) (f : Nat) : (s.dropKey f).l3Err = s.l3Err := rfl
@[simp] theorem dropKey_mem (s : Sys) (f : Nat) : (s.dropKey f).mem = s.mem := rfl
@[simp] theorem dropKey_poison (s : Sys) (f : Nat) : (s.dropKey f).poison = s.poison := rfl
@[simp] theorem dropKey_flips (s : Sys) (f : Nat) : (s.dropKey f).flips = s.flips := rfl
@[simp] theorem dropKey_dirs (s : Sys) (f : Nat) : (s.dropKey f).dirs = s.dirs := rfl
@[simp] theorem dropKey_late (s : Sys) (f : Nat) : (s.dropKey f).late = s.late := rfl
@[simp] theorem dropKey_tracker (s : Sys) (f : Nat) : (s.dropKey f).tracker = s.tracker := rfl
@[simp] theorem dropKey_dirUse (s : Sys) (f : Nat) : (s.dropKey f).dirUse = s.dirUse := rfl
@[simp] theorem dropKey_mcs (s : Sys) (f : Nat) : (s.dropKey f).mcs = s.mcs := rfl
@[simp] theorem dropKey_host (s : Sys) (f : Nat) : (s.dropKey f).host = s.host := rfl
@[simp] theorem dropKey_camp (s : Sys) (f : Nat) : (s.dropKey f).camp = s.camp := rfl
@[simp] theorem dropKey_parts (s : Sys) (f : Nat) : (s.dropKey f).parts = s.parts := rfl
@[simp] theorem dropKey_bus (s : Sys) (f : Nat) : (s.dropKey f).bus = s.bus := rfl
@[simp] theorem dropKey_alloc (s : Sys) (f : Nat) : (s.dropKey f).alloc = s.alloc := rfl
@[simp] theorem dropKey_j0up (s : Sys) (f : Nat) : (s.dropKey f).j0up = s.j0up := rfl
@[simp] theorem dropKey_j1up (s : Sys) (f : Nat) : (s.dropKey f).j1up = s.j1up := rfl
@[simp] theorem dropKey_jdev0 (s : Sys) (f : Nat) : (s.dropKey f).jdev0 = s.jdev0 := rfl
@[simp] theorem dropKey_jdev1 (s : Sys) (f : Nat) : (s.dropKey f).jdev1 = s.jdev1 := rfl
@[simp] theorem dropKey_dmas (s : Sys) (f : Nat) : (s.dropKey f).dmas = s.dmas := rfl
@[simp] theorem dropKey_tansy (s : Sys) (f : Nat) : (s.dropKey f).tansy = s.tansy := rfl
@[simp] theorem dropKey_tabs (s : Sys) (f : Nat) : (s.dropKey f).tabs = s.tabs := rfl
@[simp] theorem dropKey_seals (s : Sys) (f : Nat) : (s.dropKey f).seals = s.seals := rfl
@[simp] theorem dropKey_port (s : Sys) (f : Nat) : (s.dropKey f).port = s.port := rfl
@[simp] theorem dropKey_fab (s : Sys) (f : Nat) : (s.dropKey f).fab = s.fab := rfl
@[simp] theorem dropKey_pf (s : Sys) (f : Nat) : (s.dropKey f).pf = s.pf := rfl
@[simp] theorem dropKey_vfs (s : Sys) (f : Nat) : (s.dropKey f).vfs = s.vfs := rfl
@[simp] theorem dropKey_seqlLatch (s : Sys) (f : Nat) : (s.dropKey f).seqlLatch = s.seqlLatch := rfl
@[simp] theorem dropKey_timeUs (s : Sys) (f : Nat) : (s.dropKey f).timeUs = s.timeUs := rfl
@[simp] theorem dropKey_free (s : Sys) (f : Nat) : (s.dropKey f).free = s.free := rfl

/-! ## msix -/

@[simp] theorem msix_cores (s : Sys) (k v : Nat) : (s.msix k v).cores = s.cores := by unfold Sys.msix; split <;> rfl
@[simp] theorem msix_l3 (s : Sys) (k v : Nat) : (s.msix k v).l3 = s.l3 := by unfold Sys.msix; split <;> rfl
@[simp] theorem msix_l3Err (s : Sys) (k v : Nat) : (s.msix k v).l3Err = s.l3Err := by unfold Sys.msix; split <;> rfl
@[simp] theorem msix_mem (s : Sys) (k v : Nat) : (s.msix k v).mem = s.mem := by unfold Sys.msix; split <;> rfl
@[simp] theorem msix_poison (s : Sys) (k v : Nat) : (s.msix k v).poison = s.poison := by unfold Sys.msix; split <;> rfl
@[simp] theorem msix_flips (s : Sys) (k v : Nat) : (s.msix k v).flips = s.flips := by unfold Sys.msix; split <;> rfl
@[simp] theorem msix_keyc (s : Sys) (k v : Nat) : (s.msix k v).keyc = s.keyc := by unfold Sys.msix; split <;> rfl
@[simp] theorem msix_dirs (s : Sys) (k v : Nat) : (s.msix k v).dirs = s.dirs := by unfold Sys.msix; split <;> rfl
@[simp] theorem msix_late (s : Sys) (k v : Nat) : (s.msix k v).late = s.late := by unfold Sys.msix; split <;> rfl
@[simp] theorem msix_tracker (s : Sys) (k v : Nat) : (s.msix k v).tracker = s.tracker := by unfold Sys.msix; split <;> rfl
@[simp] theorem msix_dirUse (s : Sys) (k v : Nat) : (s.msix k v).dirUse = s.dirUse := by unfold Sys.msix; split <;> rfl
@[simp] theorem msix_mcs (s : Sys) (k v : Nat) : (s.msix k v).mcs = s.mcs := by unfold Sys.msix; split <;> rfl
@[simp] theorem msix_host (s : Sys) (k v : Nat) : (s.msix k v).host = s.host := by unfold Sys.msix; split <;> rfl
@[simp] theorem msix_camp (s : Sys) (k v : Nat) : (s.msix k v).camp = s.camp := by unfold Sys.msix; split <;> rfl
@[simp] theorem msix_parts (s : Sys) (k v : Nat) : (s.msix k v).parts = s.parts := by unfold Sys.msix; split <;> rfl
@[simp] theorem msix_bus (s : Sys) (k v : Nat) : (s.msix k v).bus = s.bus := by unfold Sys.msix; split <;> rfl
@[simp] theorem msix_alloc (s : Sys) (k v : Nat) : (s.msix k v).alloc = s.alloc := by unfold Sys.msix; split <;> rfl
@[simp] theorem msix_j0up (s : Sys) (k v : Nat) : (s.msix k v).j0up = s.j0up := by unfold Sys.msix; split <;> rfl
@[simp] theorem msix_j1up (s : Sys) (k v : Nat) : (s.msix k v).j1up = s.j1up := by unfold Sys.msix; split <;> rfl
@[simp] theorem msix_jdev0 (s : Sys) (k v : Nat) : (s.msix k v).jdev0 = s.jdev0 := by unfold Sys.msix; split <;> rfl
@[simp] theorem msix_jdev1 (s : Sys) (k v : Nat) : (s.msix k v).jdev1 = s.jdev1 := by unfold Sys.msix; split <;> rfl
@[simp] theorem msix_dmas (s : Sys) (k v : Nat) : (s.msix k v).dmas = s.dmas := by unfold Sys.msix; split <;> rfl
@[simp] theorem msix_tansy (s : Sys) (k v : Nat) : (s.msix k v).tansy = s.tansy := by unfold Sys.msix; split <;> rfl
@[simp] theorem msix_tabs (s : Sys) (k v : Nat) : (s.msix k v).tabs = s.tabs := by unfold Sys.msix; split <;> rfl
@[simp] theorem msix_seals (s : Sys) (k v : Nat) : (s.msix k v).seals = s.seals := by unfold Sys.msix; split <;> rfl
@[simp] theorem msix_port (s : Sys) (k v : Nat) : (s.msix k v).port = s.port := by unfold Sys.msix; split <;> rfl
@[simp] theorem msix_fab (s : Sys) (k v : Nat) : (s.msix k v).fab = s.fab := by unfold Sys.msix; split <;> rfl
@[simp] theorem msix_vfs (s : Sys) (k v : Nat) : (s.msix k v).vfs = s.vfs := by unfold Sys.msix; split <;> rfl
@[simp] theorem msix_seqlLatch (s : Sys) (k v : Nat) : (s.msix k v).seqlLatch = s.seqlLatch := by unfold Sys.msix; split <;> rfl
@[simp] theorem msix_timeUs (s : Sys) (k v : Nat) : (s.msix k v).timeUs = s.timeUs := by unfold Sys.msix; split <;> rfl
@[simp] theorem msix_free (s : Sys) (k v : Nat) : (s.msix k v).free = s.free := by unfold Sys.msix; split <;> rfl

/-- A vector is signalled, or waits while its mask bit is set. -/
theorem msix_pf (s : Sys) (k v : Nat) : s.msix k v = { s with pf := (s.msix k v).pf } := by unfold Sys.msix; split <;> rfl

/-! ## The running context -/

@[simp] theorem setCtx_l3 (s : Sys) (k : Nat) (x : Ctx) : (s.setCtx k x).l3 = s.l3 := by unfold Sys.setCtx; split <;> rfl
@[simp] theorem setCtx_l3Err (s : Sys) (k : Nat) (x : Ctx) :
    (s.setCtx k x).l3Err = s.l3Err := by unfold Sys.setCtx; split <;> rfl
@[simp] theorem setCtx_mem (s : Sys) (k : Nat) (x : Ctx) : (s.setCtx k x).mem = s.mem := by unfold Sys.setCtx; split <;> rfl
@[simp] theorem setCtx_poison (s : Sys) (k : Nat) (x : Ctx) :
    (s.setCtx k x).poison = s.poison := by unfold Sys.setCtx; split <;> rfl
@[simp] theorem setCtx_flips (s : Sys) (k : Nat) (x : Ctx) :
    (s.setCtx k x).flips = s.flips := by unfold Sys.setCtx; split <;> rfl
@[simp] theorem setCtx_keyc (s : Sys) (k : Nat) (x : Ctx) : (s.setCtx k x).keyc = s.keyc := by unfold Sys.setCtx; split <;> rfl
@[simp] theorem setCtx_dirs (s : Sys) (k : Nat) (x : Ctx) : (s.setCtx k x).dirs = s.dirs := by unfold Sys.setCtx; split <;> rfl
@[simp] theorem setCtx_late (s : Sys) (k : Nat) (x : Ctx) : (s.setCtx k x).late = s.late := by unfold Sys.setCtx; split <;> rfl
@[simp] theorem setCtx_tracker (s : Sys) (k : Nat) (x : Ctx) :
    (s.setCtx k x).tracker = s.tracker := by unfold Sys.setCtx; split <;> rfl
@[simp] theorem setCtx_dirUse (s : Sys) (k : Nat) (x : Ctx) :
    (s.setCtx k x).dirUse = s.dirUse := by unfold Sys.setCtx; split <;> rfl
@[simp] theorem setCtx_mcs (s : Sys) (k : Nat) (x : Ctx) : (s.setCtx k x).mcs = s.mcs := by unfold Sys.setCtx; split <;> rfl
@[simp] theorem setCtx_host (s : Sys) (k : Nat) (x : Ctx) : (s.setCtx k x).host = s.host := by unfold Sys.setCtx; split <;> rfl
@[simp] theorem setCtx_camp (s : Sys) (k : Nat) (x : Ctx) : (s.setCtx k x).camp = s.camp := by unfold Sys.setCtx; split <;> rfl
@[simp] theorem setCtx_parts (s : Sys) (k : Nat) (x : Ctx) :
    (s.setCtx k x).parts = s.parts := by unfold Sys.setCtx; split <;> rfl
@[simp] theorem setCtx_bus (s : Sys) (k : Nat) (x : Ctx) : (s.setCtx k x).bus = s.bus := by unfold Sys.setCtx; split <;> rfl
@[simp] theorem setCtx_alloc (s : Sys) (k : Nat) (x : Ctx) :
    (s.setCtx k x).alloc = s.alloc := by unfold Sys.setCtx; split <;> rfl
@[simp] theorem setCtx_j0up (s : Sys) (k : Nat) (x : Ctx) : (s.setCtx k x).j0up = s.j0up := by unfold Sys.setCtx; split <;> rfl
@[simp] theorem setCtx_j1up (s : Sys) (k : Nat) (x : Ctx) : (s.setCtx k x).j1up = s.j1up := by unfold Sys.setCtx; split <;> rfl
@[simp] theorem setCtx_jdev0 (s : Sys) (k : Nat) (x : Ctx) :
    (s.setCtx k x).jdev0 = s.jdev0 := by unfold Sys.setCtx; split <;> rfl
@[simp] theorem setCtx_jdev1 (s : Sys) (k : Nat) (x : Ctx) :
    (s.setCtx k x).jdev1 = s.jdev1 := by unfold Sys.setCtx; split <;> rfl
@[simp] theorem setCtx_dmas (s : Sys) (k : Nat) (x : Ctx) : (s.setCtx k x).dmas = s.dmas := by unfold Sys.setCtx; split <;> rfl
@[simp] theorem setCtx_tansy (s : Sys) (k : Nat) (x : Ctx) :
    (s.setCtx k x).tansy = s.tansy := by unfold Sys.setCtx; split <;> rfl
@[simp] theorem setCtx_tabs (s : Sys) (k : Nat) (x : Ctx) : (s.setCtx k x).tabs = s.tabs := by unfold Sys.setCtx; split <;> rfl
@[simp] theorem setCtx_seals (s : Sys) (k : Nat) (x : Ctx) :
    (s.setCtx k x).seals = s.seals := by unfold Sys.setCtx; split <;> rfl
@[simp] theorem setCtx_port (s : Sys) (k : Nat) (x : Ctx) : (s.setCtx k x).port = s.port := by unfold Sys.setCtx; split <;> rfl
@[simp] theorem setCtx_fab (s : Sys) (k : Nat) (x : Ctx) : (s.setCtx k x).fab = s.fab := by unfold Sys.setCtx; split <;> rfl
@[simp] theorem setCtx_pf (s : Sys) (k : Nat) (x : Ctx) : (s.setCtx k x).pf = s.pf := by unfold Sys.setCtx; split <;> rfl
@[simp] theorem setCtx_vfs (s : Sys) (k : Nat) (x : Ctx) : (s.setCtx k x).vfs = s.vfs := by unfold Sys.setCtx; split <;> rfl
@[simp] theorem setCtx_seqlLatch (s : Sys) (k : Nat) (x : Ctx) :
    (s.setCtx k x).seqlLatch = s.seqlLatch := by unfold Sys.setCtx; split <;> rfl
@[simp] theorem setCtx_timeUs (s : Sys) (k : Nat) (x : Ctx) :
    (s.setCtx k x).timeUs = s.timeUs := by unfold Sys.setCtx; split <;> rfl
@[simp] theorem setCtx_free (s : Sys) (k : Nat) (x : Ctx) : (s.setCtx k x).free = s.free := by unfold Sys.setCtx; split <;> rfl
@[simp] theorem modCtx_l3 (s : Sys) (k : Nat) (f : Ctx → Ctx) : (s.modCtx k f).l3 = s.l3 := setCtx_l3 s k _
@[simp] theorem modCtx_l3Err (s : Sys) (k : Nat) (f : Ctx → Ctx) : (s.modCtx k f).l3Err = s.l3Err := setCtx_l3Err s k _
@[simp] theorem modCtx_mem (s : Sys) (k : Nat) (f : Ctx → Ctx) : (s.modCtx k f).mem = s.mem := setCtx_mem s k _
@[simp] theorem modCtx_poison (s : Sys) (k : Nat) (f : Ctx → Ctx) : (s.modCtx k f).poison = s.poison := setCtx_poison s k _
@[simp] theorem modCtx_flips (s : Sys) (k : Nat) (f : Ctx → Ctx) : (s.modCtx k f).flips = s.flips := setCtx_flips s k _
@[simp] theorem modCtx_keyc (s : Sys) (k : Nat) (f : Ctx → Ctx) : (s.modCtx k f).keyc = s.keyc := setCtx_keyc s k _
@[simp] theorem modCtx_dirs (s : Sys) (k : Nat) (f : Ctx → Ctx) : (s.modCtx k f).dirs = s.dirs := setCtx_dirs s k _
@[simp] theorem modCtx_late (s : Sys) (k : Nat) (f : Ctx → Ctx) : (s.modCtx k f).late = s.late := setCtx_late s k _
@[simp] theorem modCtx_tracker (s : Sys) (k : Nat) (f : Ctx → Ctx) : (s.modCtx k f).tracker = s.tracker := setCtx_tracker s k _
@[simp] theorem modCtx_dirUse (s : Sys) (k : Nat) (f : Ctx → Ctx) : (s.modCtx k f).dirUse = s.dirUse := setCtx_dirUse s k _
@[simp] theorem modCtx_mcs (s : Sys) (k : Nat) (f : Ctx → Ctx) : (s.modCtx k f).mcs = s.mcs := setCtx_mcs s k _
@[simp] theorem modCtx_host (s : Sys) (k : Nat) (f : Ctx → Ctx) : (s.modCtx k f).host = s.host := setCtx_host s k _
@[simp] theorem modCtx_camp (s : Sys) (k : Nat) (f : Ctx → Ctx) : (s.modCtx k f).camp = s.camp := setCtx_camp s k _
@[simp] theorem modCtx_parts (s : Sys) (k : Nat) (f : Ctx → Ctx) : (s.modCtx k f).parts = s.parts := setCtx_parts s k _
@[simp] theorem modCtx_bus (s : Sys) (k : Nat) (f : Ctx → Ctx) : (s.modCtx k f).bus = s.bus := setCtx_bus s k _
@[simp] theorem modCtx_alloc (s : Sys) (k : Nat) (f : Ctx → Ctx) : (s.modCtx k f).alloc = s.alloc := setCtx_alloc s k _
@[simp] theorem modCtx_j0up (s : Sys) (k : Nat) (f : Ctx → Ctx) : (s.modCtx k f).j0up = s.j0up := setCtx_j0up s k _
@[simp] theorem modCtx_j1up (s : Sys) (k : Nat) (f : Ctx → Ctx) : (s.modCtx k f).j1up = s.j1up := setCtx_j1up s k _
@[simp] theorem modCtx_jdev0 (s : Sys) (k : Nat) (f : Ctx → Ctx) : (s.modCtx k f).jdev0 = s.jdev0 := setCtx_jdev0 s k _
@[simp] theorem modCtx_jdev1 (s : Sys) (k : Nat) (f : Ctx → Ctx) : (s.modCtx k f).jdev1 = s.jdev1 := setCtx_jdev1 s k _
@[simp] theorem modCtx_dmas (s : Sys) (k : Nat) (f : Ctx → Ctx) : (s.modCtx k f).dmas = s.dmas := setCtx_dmas s k _
@[simp] theorem modCtx_tansy (s : Sys) (k : Nat) (f : Ctx → Ctx) : (s.modCtx k f).tansy = s.tansy := setCtx_tansy s k _
@[simp] theorem modCtx_tabs (s : Sys) (k : Nat) (f : Ctx → Ctx) : (s.modCtx k f).tabs = s.tabs := setCtx_tabs s k _
@[simp] theorem modCtx_seals (s : Sys) (k : Nat) (f : Ctx → Ctx) : (s.modCtx k f).seals = s.seals := setCtx_seals s k _
@[simp] theorem modCtx_port (s : Sys) (k : Nat) (f : Ctx → Ctx) : (s.modCtx k f).port = s.port := setCtx_port s k _
@[simp] theorem modCtx_fab (s : Sys) (k : Nat) (f : Ctx → Ctx) : (s.modCtx k f).fab = s.fab := setCtx_fab s k _
@[simp] theorem modCtx_pf (s : Sys) (k : Nat) (f : Ctx → Ctx) : (s.modCtx k f).pf = s.pf := setCtx_pf s k _
@[simp] theorem modCtx_vfs (s : Sys) (k : Nat) (f : Ctx → Ctx) : (s.modCtx k f).vfs = s.vfs := setCtx_vfs s k _
@[simp] theorem modCtx_seqlLatch (s : Sys) (k : Nat) (f : Ctx → Ctx) :
    (s.modCtx k f).seqlLatch = s.seqlLatch := setCtx_seqlLatch s k _
@[simp] theorem modCtx_timeUs (s : Sys) (k : Nat) (f : Ctx → Ctx) : (s.modCtx k f).timeUs = s.timeUs := setCtx_timeUs s k _
@[simp] theorem modCtx_free (s : Sys) (k : Nat) (f : Ctx → Ctx) : (s.modCtx k f).free = s.free := setCtx_free s k _

theorem setCtx_running {s : Sys} {k b : Nat} {x : Ctx} (h : s.running k = some (b, x)) (y : Ctx) :
    s.setCtx k y = s.setCore k { s.core k with banks := tset (s.core k).banks b y } := by
  simp [Sys.setCtx, h, Sys.setBank]

theorem setCtx_idle {s : Sys} {k : Nat} (h : s.running k = none) (y : Ctx) : s.setCtx k y = s := by simp [Sys.setCtx, h]

theorem ctx_running {s : Sys} {k b : Nat} {x : Ctx} (h : s.running k = some (b, x)) : s.ctx k = x := by simp [Sys.ctx, h]

theorem running_setCtx {s : Sys} {k b : Nat} {x : Ctx} (h : s.running k = some (b, x)) (y : Ctx) :
    (s.setCtx k y).running k = some (b, y) := by
  rw [setCtx_running h]
  simp only [Sys.running, core_setCore] at h ⊢
  revert h
  cases (s.core k).cur with
  | none => simp
  | some c =>
    cases (s.core k).stopped with
    | true => simp
    | false =>
      cases hb : tfind (s.core k).banks c with
      | none => simp [hb]
      | some z =>
        simp only [hb]
        intro h
        simp only [Bool.false_eq_true, if_false, Option.map_some, Option.some.injEq, Prod.mk.injEq] at h
        obtain ⟨rfl, rfl⟩ := h
        simp

/-- The context of a running core is the one last written. -/
theorem ctx_setCtx {s : Sys} {k b : Nat} {x : Ctx} (h : s.running k = some (b, x)) (y : Ctx) : (s.setCtx k y).ctx k = y :=
  ctx_running (running_setCtx h y)

theorem core_setCtx_ne (s : Sys) {k j : Nat} (y : Ctx) (h : j ≠ k) : (s.setCtx k y).core j = s.core j := by
  unfold Sys.setCtx
  split
  · exact core_setCore_ne _ _ h
  · rfl

/-! ## The whole state -/

@[simp] theorem mod_sys (s : State) (f : Sys → Sys) : (s.mod f).sys = f s.sys := rfl
@[simp] theorem mod_master (s : State) (f : Sys → Sys) : (s.mod f).master = s.master := rfl
@[simp] theorem mod_pwr (s : State) (f : Sys → Sys) : (s.mod f).pwr = s.pwr := rfl
@[simp] theorem mod_boot (s : State) (f : Sys → Sys) : (s.mod f).boot = s.boot := rfl
@[simp] theorem mod_fuses (s : State) (f : Sys → Sys) : (s.mod f).fuses = s.fuses := rfl
@[simp] theorem mod_flash (s : State) (f : Sys → Sys) : (s.mod f).flash = s.flash := rfl
@[simp] theorem mod_configs (s : State) (f : Sys → Sys) : (s.mod f).configs = s.configs := rfl
@[simp] theorem mod_pending (s : State) (f : Sys → Sys) : (s.mod f).pending = s.pending := rfl
@[simp] theorem modPort_master (s : State) (f : Port → Port) : (s.modPort f).master = s.master := rfl
@[simp] theorem modPort_pwr (s : State) (f : Port → Port) : (s.modPort f).pwr = s.pwr := rfl
@[simp] theorem modPort_boot (s : State) (f : Port → Port) : (s.modPort f).boot = s.boot := rfl
@[simp] theorem modPort_fuses (s : State) (f : Port → Port) : (s.modPort f).fuses = s.fuses := rfl
@[simp] theorem modPort_flash (s : State) (f : Port → Port) : (s.modPort f).flash = s.flash := rfl
@[simp] theorem modPort_configs (s : State) (f : Port → Port) : (s.modPort f).configs = s.configs := rfl
@[simp] theorem modPort_pending (s : State) (f : Port → Port) : (s.modPort f).pending = s.pending := rfl
@[simp] theorem popped_master (s : State) : (s.popped).master = s.master := rfl
@[simp] theorem popped_pwr (s : State) : (s.popped).pwr = s.pwr := rfl
@[simp] theorem popped_boot (s : State) : (s.popped).boot = s.boot := rfl
@[simp] theorem popped_fuses (s : State) : (s.popped).fuses = s.fuses := rfl
@[simp] theorem popped_flash (s : State) : (s.popped).flash = s.flash := rfl
@[simp] theorem popped_configs (s : State) : (s.popped).configs = s.configs := rfl
@[simp] theorem popped_pending (s : State) : (s.popped).pending = s.pending := rfl
@[simp] theorem drive_master (s : State) (w : Wires) : (s.drive w).master = s.master := rfl
@[simp] theorem drive_pwr (s : State) (w : Wires) : (s.drive w).pwr = s.pwr := rfl
@[simp] theorem drive_boot (s : State) (w : Wires) : (s.drive w).boot = s.boot := rfl
@[simp] theorem drive_fuses (s : State) (w : Wires) : (s.drive w).fuses = s.fuses := rfl
@[simp] theorem drive_flash (s : State) (w : Wires) : (s.drive w).flash = s.flash := rfl
@[simp] theorem drive_configs (s : State) (w : Wires) : (s.drive w).configs = s.configs := rfl
@[simp] theorem drive_pending (s : State) (w : Wires) : (s.drive w).pending = s.pending := rfl
@[simp] theorem respond_master (s : State) (r : Rsp) (d : DWord) : (s.respond r d).master = s.master := rfl
@[simp] theorem respond_pwr (s : State) (r : Rsp) (d : DWord) : (s.respond r d).pwr = s.pwr := rfl
@[simp] theorem respond_boot (s : State) (r : Rsp) (d : DWord) : (s.respond r d).boot = s.boot := rfl
@[simp] theorem respond_fuses (s : State) (r : Rsp) (d : DWord) : (s.respond r d).fuses = s.fuses := rfl
@[simp] theorem respond_flash (s : State) (r : Rsp) (d : DWord) : (s.respond r d).flash = s.flash := rfl
@[simp] theorem respond_configs (s : State) (r : Rsp) (d : DWord) : (s.respond r d).configs = s.configs := rfl
@[simp] theorem respond_pending (s : State) (r : Rsp) (d : DWord) : (s.respond r d).pending = s.pending := rfl
@[simp] theorem modPort_port (s : State) (f : Port → Port) : (s.modPort f).sys.port = f s.sys.port := rfl
@[simp] theorem modPort_sys_cores (s : State) (f : Port → Port) : (s.modPort f).sys.cores = s.sys.cores := rfl
@[simp] theorem modPort_sys_l3 (s : State) (f : Port → Port) : (s.modPort f).sys.l3 = s.sys.l3 := rfl
@[simp] theorem modPort_sys_l3Err (s : State) (f : Port → Port) : (s.modPort f).sys.l3Err = s.sys.l3Err := rfl
@[simp] theorem modPort_sys_mem (s : State) (f : Port → Port) : (s.modPort f).sys.mem = s.sys.mem := rfl
@[simp] theorem modPort_sys_poison (s : State) (f : Port → Port) : (s.modPort f).sys.poison = s.sys.poison := rfl
@[simp] theorem modPort_sys_flips (s : State) (f : Port → Port) : (s.modPort f).sys.flips = s.sys.flips := rfl
@[simp] theorem modPort_sys_keyc (s : State) (f : Port → Port) : (s.modPort f).sys.keyc = s.sys.keyc := rfl
@[simp] theorem modPort_sys_dirs (s : State) (f : Port → Port) : (s.modPort f).sys.dirs = s.sys.dirs := rfl
@[simp] theorem modPort_sys_late (s : State) (f : Port → Port) : (s.modPort f).sys.late = s.sys.late := rfl
@[simp] theorem modPort_sys_tracker (s : State) (f : Port → Port) : (s.modPort f).sys.tracker = s.sys.tracker := rfl
@[simp] theorem modPort_sys_dirUse (s : State) (f : Port → Port) : (s.modPort f).sys.dirUse = s.sys.dirUse := rfl
@[simp] theorem modPort_sys_mcs (s : State) (f : Port → Port) : (s.modPort f).sys.mcs = s.sys.mcs := rfl
@[simp] theorem modPort_sys_host (s : State) (f : Port → Port) : (s.modPort f).sys.host = s.sys.host := rfl
@[simp] theorem modPort_sys_camp (s : State) (f : Port → Port) : (s.modPort f).sys.camp = s.sys.camp := rfl
@[simp] theorem modPort_sys_parts (s : State) (f : Port → Port) : (s.modPort f).sys.parts = s.sys.parts := rfl
@[simp] theorem modPort_sys_bus (s : State) (f : Port → Port) : (s.modPort f).sys.bus = s.sys.bus := rfl
@[simp] theorem modPort_sys_alloc (s : State) (f : Port → Port) : (s.modPort f).sys.alloc = s.sys.alloc := rfl
@[simp] theorem modPort_sys_j0up (s : State) (f : Port → Port) : (s.modPort f).sys.j0up = s.sys.j0up := rfl
@[simp] theorem modPort_sys_j1up (s : State) (f : Port → Port) : (s.modPort f).sys.j1up = s.sys.j1up := rfl
@[simp] theorem modPort_sys_jdev0 (s : State) (f : Port → Port) : (s.modPort f).sys.jdev0 = s.sys.jdev0 := rfl
@[simp] theorem modPort_sys_jdev1 (s : State) (f : Port → Port) : (s.modPort f).sys.jdev1 = s.sys.jdev1 := rfl
@[simp] theorem modPort_sys_dmas (s : State) (f : Port → Port) : (s.modPort f).sys.dmas = s.sys.dmas := rfl
@[simp] theorem modPort_sys_tansy (s : State) (f : Port → Port) : (s.modPort f).sys.tansy = s.sys.tansy := rfl
@[simp] theorem modPort_sys_tabs (s : State) (f : Port → Port) : (s.modPort f).sys.tabs = s.sys.tabs := rfl
@[simp] theorem modPort_sys_seals (s : State) (f : Port → Port) : (s.modPort f).sys.seals = s.sys.seals := rfl
@[simp] theorem modPort_sys_fab (s : State) (f : Port → Port) : (s.modPort f).sys.fab = s.sys.fab := rfl
@[simp] theorem modPort_sys_pf (s : State) (f : Port → Port) : (s.modPort f).sys.pf = s.sys.pf := rfl
@[simp] theorem modPort_sys_vfs (s : State) (f : Port → Port) : (s.modPort f).sys.vfs = s.sys.vfs := rfl
@[simp] theorem modPort_sys_seqlLatch (s : State) (f : Port → Port) : (s.modPort f).sys.seqlLatch = s.sys.seqlLatch := rfl
@[simp] theorem modPort_sys_timeUs (s : State) (f : Port → Port) : (s.modPort f).sys.timeUs = s.sys.timeUs := rfl
@[simp] theorem modPort_sys_free (s : State) (f : Port → Port) : (s.modPort f).sys.free = s.sys.free := rfl
@[simp] theorem modM_sys (s : State) (f : Master → Master) : (s.modM f).sys = s.sys := by unfold State.modM; split <;> rfl
@[simp] theorem modM_pwr (s : State) (f : Master → Master) : (s.modM f).pwr = s.pwr := by unfold State.modM; split <;> rfl
@[simp] theorem modM_boot (s : State) (f : Master → Master) : (s.modM f).boot = s.boot := by unfold State.modM; split <;> rfl
@[simp] theorem modM_fuses (s : State) (f : Master → Master) : (s.modM f).fuses = s.fuses := by unfold State.modM; split <;> rfl
@[simp] theorem modM_flash (s : State) (f : Master → Master) : (s.modM f).flash = s.flash := by unfold State.modM; split <;> rfl
@[simp] theorem modM_configs (s : State) (f : Master → Master) :
    (s.modM f).configs = s.configs := by unfold State.modM; split <;> rfl
@[simp] theorem modM_pending (s : State) (f : Master → Master) :
    (s.modM f).pending = s.pending := by unfold State.modM; split <;> rfl

end Sys2Proof.Machine
end

