-- ==== Sys2Proof/Laws/Memory.lean ====
section
/-! SUPPORT. Memory and flash: read after write, frames, and the canonical form. -/

namespace Sys2Proof.Machine

/-! ## Tables that rise -/

theorem risingFrom_mono {α : Type} {t : Tbl α} {lo lo' : Nat} (h : risingFrom lo t = true) (hl : lo' ≤ lo) :
    risingFrom lo' t = true := by
  cases t with
  | nil => rfl
  | cons p t =>
    simp only [risingFrom, Bool.and_eq_true, decide_eq_true_eq] at h ⊢
    exact ⟨Nat.le_trans hl h.1, h.2⟩

theorem tset_rising {α : Type} {t : Tbl α} {lo k : Nat} (a : α) (h : risingFrom lo t = true) (hk : lo ≤ k) :
    risingFrom lo (tset t k a) = true := by
  induction t generalizing lo with
  | nil => simp [tset, risingFrom, hk]
  | cons p t ih =>
    obtain ⟨i, b⟩ := p
    simp only [risingFrom, Bool.and_eq_true, decide_eq_true_eq] at h
    simp only [tset]
    split
    · rename_i hlt
      simp [risingFrom, hk, h.2]
      omega
    · split
      · rename_i he
        subst he
        simp [risingFrom, hk, h.2]
      · simp only [risingFrom, Bool.and_eq_true, decide_eq_true_eq]
        exact ⟨h.1, ih h.2 (by omega)⟩

theorem terase_rising {α : Type} {t : Tbl α} {lo : Nat} (k : Nat) (h : risingFrom lo t = true) :
    risingFrom lo (terase t k) = true := by
  induction t generalizing lo with
  | nil => rfl
  | cons p t ih =>
    obtain ⟨i, b⟩ := p
    simp only [risingFrom, Bool.and_eq_true, decide_eq_true_eq] at h
    simp only [terase]
    split
    · simp [risingFrom, h]
    · split
      · exact risingFrom_mono h.2 (by omega)
      · simp only [risingFrom, Bool.and_eq_true, decide_eq_true_eq]
        exact ⟨h.1, ih h.2⟩

theorem mem_tset {α : Type} {t : Tbl α} {k : Nat} {a : α} {c : Nat × α} (h : c ∈ tset t k a) : c = (k, a) ∨ c ∈ t := by
  induction t with
  | nil => simp [tset] at h; exact .inl h
  | cons p t ih =>
    obtain ⟨i, b⟩ := p
    simp only [tset] at h
    split at h
    · simpa using h
    · split at h
      · simp only [List.mem_cons] at h ⊢
        rcases h with h | h
        · exact .inl h
        · exact .inr (.inr h)
      · simp only [List.mem_cons] at h ⊢
        rcases h with h | h
        · exact .inr (.inl h)
        · rcases ih h with h | h
          · exact .inl h
          · exact .inr (.inr h)

theorem mem_terase {α : Type} {t : Tbl α} {k : Nat} {c : Nat × α} (h : c ∈ terase t k) : c ∈ t := by
  induction t with
  | nil => simp [terase] at h
  | cons p t ih =>
    obtain ⟨i, b⟩ := p
    simp only [terase] at h
    split at h
    · exact h
    · split at h
      · exact List.mem_cons_of_mem _ h
      · simp only [List.mem_cons] at h ⊢
        rcases h with h | h
        · exact .inl h
        · exact .inr (ih h)

theorem tfind_rising_lt {α : Type} {t : Tbl α} {lo k : Nat} (h : risingFrom lo t = true) (hk : k < lo) : tfind t k = none := by
  induction t generalizing lo with
  | nil => rfl
  | cons p t ih =>
    obtain ⟨i, b⟩ := p
    simp only [risingFrom, Bool.and_eq_true, decide_eq_true_eq] at h
    have hne : i ≠ k := by omega
    simp [tfind, hne, ih h.2 (by omega)]

theorem tfind_terase_same {α : Type} {t : Tbl α} {lo : Nat} (k : Nat) (h : risingFrom lo t = true) :
    tfind (terase t k) k = none := by
  induction t generalizing lo with
  | nil => rfl
  | cons p t ih =>
    obtain ⟨i, b⟩ := p
    simp only [risingFrom, Bool.and_eq_true, decide_eq_true_eq] at h
    simp only [terase]
    split
    · have hne : i ≠ k := by omega
      simp [tfind, hne, tfind_rising_lt h.2 (by omega : k < i + 1)]
    · split
      · exact tfind_rising_lt h.2 (by omega)
      · rename_i hne
        simp [tfind, Ne.symm hne, ih h.2]

theorem tfind_terase_ne {α : Type} (t : Tbl α) {k j : Nat} (h : j ≠ k) : tfind (terase t k) j = tfind t j := by
  induction t with
  | nil => rfl
  | cons p t ih =>
    obtain ⟨i, b⟩ := p
    simp only [terase]
    split
    · rfl
    · split
      · rename_i he
        simp [tfind, ← he, Ne.symm h]
      · simp [tfind, ih]

/-! ## One syllable -/

theorem mget_mset_same {m : Tbl Syl} (a : Nat) (v : Syl) (h : Memory.wf m = true) : mget (mset m a v) a = v := by
  simp only [Memory.wf, Bool.and_eq_true] at h
  unfold mset mget tget
  split
  · rename_i hv
    simp [tfind_terase_same a h.1, hv]
  · simp

theorem mget_mset_ne (m : Tbl Syl) {a b : Nat} (v : Syl) (h : b ≠ a) : mget (mset m a v) b = mget m b := by
  unfold mset mget tget
  split
  · rw [tfind_terase_ne m h]
  · rw [tfind_tset_ne m v h]

theorem mset_wf {m : Tbl Syl} (a : Nat) (v : Syl) (h : Memory.wf m = true) : Memory.wf (mset m a v) = true := by
  simp only [Memory.wf, Bool.and_eq_true, List.all_eq_true, bne_iff_ne, ne_eq] at h ⊢
  unfold mset
  split
  · exact ⟨terase_rising a h.1, fun c hc => h.2 c (mem_terase hc)⟩
  · rename_i hv
    refine ⟨tset_rising v h.1 (Nat.zero_le a), fun c hc => ?_⟩
    rcases mem_tset hc with rfl | hc
    · exact hv
    · exact h.2 c hc

/-! ## Several syllables -/

theorem msets_wf {m : Tbl Syl} (a : Nat) (l : List Syl) (h : Memory.wf m = true) : Memory.wf (msets m a l) = true := by
  induction l generalizing m a with
  | nil => exact h
  | cons x l ih => exact ih (a + 1) (mset_wf a x h)

theorem mget_msets_out (m : Tbl Syl) {a b : Nat} (l : List Syl) (h : b < a ∨ a + l.length ≤ b) :
    mget (msets m a l) b = mget m b := by
  induction l generalizing m a with
  | nil => rfl
  | cons x l ih =>
    simp only [List.length_cons] at h
    simp only [msets]
    rw [ih (mset m a x) (a := a + 1) (by omega), mget_mset_ne m x (by omega)]

theorem mget_msets_in {m : Tbl Syl} {a i : Nat} (l : List Syl) (h : Memory.wf m = true) (hi : i < l.length) :
    mget (msets m a l) (a + i) = l[i] := by
  induction l generalizing m a i with
  | nil => simp at hi
  | cons x l ih =>
    simp only [msets]
    cases i with
    | zero => rw [mget_msets_out _ l (by omega)]; simpa using mget_mset_same a x h
    | succ i =>
      have := ih (m := mset m a x) (a := a + 1) (i := i) (mset_wf a x h) (by simpa using hi)
      simpa [Nat.add_assoc, Nat.add_comm 1 i] using this

/-! ## Data in the module's memory -/

theorem put_mem (a : Nat) (l : List Syl) (s : Sys) :
    (s.put a l).mem = if memSize ≤ a || l.isEmpty then s.mem else msets s.mem a l := by
  unfold Sys.put
  split <;> rfl

/-- What new data may change besides memory: the pairs' change bits. -/
theorem put_frame (a : Nat) (l : List Syl) (s : Sys) :
    s.put a l = { s with mem := (s.put a l).mem, fab := { s.fab with pairs := (s.put a l).fab.pairs } } := by
  unfold Sys.put
  split <;> rfl

theorem put_wf (a : Nat) (l : List Syl) (s : Sys) (h : Memory.wf s.mem = true) : Memory.wf (s.put a l).mem = true := by
  rw [put_mem]
  split
  · exact h
  · exact msets_wf a l h

theorem put_out (a b : Nat) (l : List Syl) (s : Sys) (h : b < a ∨ a + l.length ≤ b) : mget (s.put a l).mem b = mget s.mem b := by
  rw [put_mem]
  split
  · rfl
  · exact mget_msets_out s.mem l h

/-- New data is what a read then finds. -/
theorem put_in {a i : Nat} (l : List Syl) (s : Sys) (h : Memory.wf s.mem = true) (ha : a < memSize) (hi : i < l.length) :
    mget (s.put a l).mem (a + i) = l[i] := by
  have hl : l.isEmpty = false := by cases l <;> simp_all
  simp only [put_mem, hl, Nat.not_le.mpr ha, decide_false, Bool.or_self, Bool.false_eq_true, if_false]
  exact mget_msets_in l h hi

/-! ## What leaves the data as it is: the caches, the directory, the checks of code words -/

theorem foldl_keeps {α β : Type} (g : Sys → β) (f : Sys → α → Sys) (h : ∀ s x, g (f s x) = g s) (l : List α) (s : Sys) :
    g (l.foldl f s) = g s := by
  induction l generalizing s with
  | nil => rfl
  | cons x l ih => exact (ih (f s x)).trans (h s x)

@[simp] theorem setDir_mem (s : Sys) (n : Nat) (d : DirEnt) : (s.setDir n d).mem = s.mem := by unfold Sys.setDir; split <;> rfl
@[simp] theorem capture_mem (s : Sys) (k src cw : Nat) : (s.capture k src cw).mem = s.mem := rfl
@[simp] theorem newlyBad_mem (s : Sys) (src cw : Nat) : (s.newlyBad src cw).mem = s.mem := rfl
@[simp] theorem correctedAt_mem (s : Sys) (src cw : Nat) : (s.correctedAt src cw).mem = s.mem := rfl

@[simp] theorem writeBack_mem (s : Sys) (e : CLine) : (s.writeBack e).mem = s.mem := by
  unfold Sys.writeBack
  extract_lets m
  split <;> rfl

@[simp] theorem addFlips_mem (s : Sys) (e : Ecc) : (s.addFlips e).mem = s.mem := by
  unfold Sys.addFlips
  induction e generalizing s with
  | nil => rfl
  | cons x e ih => exact ih _

@[simp] theorem dropCore_mem (s : Sys) (k line : Nat) : (s.dropCore k line).mem = s.mem := by
  unfold Sys.dropCore
  simp only
  split
  · rfl
  · split <;> simp

@[simp] theorem takeOut_mem (s : Sys) (c line : Nat) : (s.takeOut c line).2.mem = s.mem := by
  unfold Sys.takeOut
  split
  · rfl
  · simp only [setL3_mem]
    exact foldl_keeps (fun s => s.mem) _ (fun s k => dropCore_mem s k line) _ _

@[simp] theorem dropCluster_mem (s : Sys) (c line : Nat) : (s.dropCluster c line).mem = s.mem := by
  have h := takeOut_mem s c line
  unfold Sys.dropCluster
  split
  · rename_i e t ht
    rw [ht] at h
    split
    · rw [writeBack_mem]; exact h
    · exact h
  · rename_i t ht
    rw [ht] at h
    exact h

@[simp] theorem dropOthers_mem (s : Sys) (c : Option Nat) (line : Nat) : (s.dropOthers c line).mem = s.mem := by
  refine foldl_keeps (fun s => s.mem) _ (fun s d => ?_) _ _
  split
  · rfl
  · exact dropCluster_mem s d line

@[simp] theorem takeBack_mem (s : Sys) (line : Nat) : (s.takeBack line).mem = s.mem := by
  unfold Sys.takeBack
  simp only
  split
  · rfl
  · split <;> simp

/-! ## The check of a code word that is read -/

/-- A code word that is as it was written, or that is poisoned or on a lost stack, keeps its data; one whose error goes undetected,
or is taken for another's, may come to hold any other. -/
theorem readCheck_mem (s : Sys) (src cw : Nat) :
    (s.readCheck src cw).mem = s.mem ∨ ∃ n, (s.readCheck src cw).mem = (s.put (32 * cw) (sylsOf 32 n)).mem := by
  have hp : ∀ (t : Sys) (n : Nat), t.mem = s.mem → (t.put (32 * cw) (sylsOf 32 n)).mem = (s.put (32 * cw) (sylsOf 32 n)).mem := by
    intro t n ht
    simp only [put_mem, ht]
  unfold Sys.readCheck
  extract_lets i m e u f g
  split
  · exact .inl rfl
  · split
    · exact .inl rfl
    · split
      · exact .inl rfl
      · split
        · exact .inl rfl
        · split
          · exact .inl rfl
          · split
            · exact .inl rfl
            · split
              · exact .inr ⟨_, hp _ _ rfl⟩
              · exact .inr ⟨_, hp _ _ rfl⟩

theorem readCheck_clean (s : Sys) (src cw : Nat) (h : tget 0 s.flips cw = 0) : (s.readCheck src cw).mem = s.mem := by
  unfold Sys.readCheck
  simp only [h, if_true]
  split
  · rfl
  · split <;> rfl

theorem readCheck_wf (s : Sys) (src cw : Nat) (h : Memory.wf s.mem = true) : Memory.wf (s.readCheck src cw).mem = true := by
  rcases readCheck_mem s src cw with e | ⟨n, e⟩ <;> rw [e]
  · exact h
  · exact put_wf _ _ _ h

theorem sylsOf_length (n v : Nat) : (sylsOf n v).length = n := by
  induction n generalizing v with
  | zero => rfl
  | succ n ih => simp [sylsOf, ih]

theorem readCheck_out (s : Sys) (src cw b : Nat) (h : b / 32 ≠ cw) : mget (s.readCheck src cw).mem b = mget s.mem b := by
  rcases readCheck_mem s src cw with e | ⟨n, e⟩ <;> rw [e]
  exact put_out _ _ _ _ (by rw [sylsOf_length]; omega)

theorem foldl_wf {α : Type} (f : Sys → α → Sys) (h : ∀ s x, Memory.wf s.mem = true → Memory.wf (f s x).mem = true) (l : List α)
    (s : Sys) (hs : Memory.wf s.mem = true) : Memory.wf (l.foldl f s).mem = true := by
  induction l generalizing s with
  | nil => exact hs
  | cons x l ih => exact ih (f s x) (h s x hs)

theorem fetchFor_wf (s : Sys) (src a n : Nat) (h : Memory.wf s.mem = true) : Memory.wf (s.fetchFor src a n).mem = true := by
  unfold Sys.fetchFor
  split
  · exact h
  · refine foldl_wf _ (fun s i hs => ?_) _ _ h
    simp only
    split
    · exact hs
    · exact readCheck_wf _ _ _ hs

/-! ## The write of an agent that does not cache -/

/-- One code word's write: the data as it was, or as the check of the word left it, or that with the new data. -/
theorem cwWrite_mem (src a : Nat) (l : List Syl) (s : Sys) :
    (s.cwWrite src a l).mem = s.mem ∨ ∃ u : Sys, (u.mem = s.mem ∨ u.mem = ((s.takeBack (a / 64)).readCheck src (a / 32)).mem) ∧
      ((s.cwWrite src a l).mem = u.mem ∨ (s.cwWrite src a l).mem = (u.put a l).mem) := by
  unfold Sys.cwWrite
  extract_lets cw locked t m whole
  have ht : t.mem = s.mem := by
    simp only [t]
    split <;> simp
  split
  · exact .inl ht
  · rename_i hlk
    have htb : t = s.takeBack (a / 64) := if_neg hlk
    split
    · exact .inl ht
    · split
      · exact .inr ⟨t, .inl ht, .inr rfl⟩
      · split
        · split
          · exact .inr ⟨t, .inl ht, .inr rfl⟩
          · exact .inr ⟨t, .inl ht, .inr rfl⟩
        · split
          · exact .inl ht
          · split
            · exact .inr ⟨t.readCheck src cw, .inr (by rw [htb]), .inl rfl⟩
            · exact .inr ⟨t.readCheck src cw, .inr (by rw [htb]), .inr rfl⟩

/-- A write to a word that is neither locked nor poisoned nor damaged, on a live stack, puts its data there. -/
theorem cwWrite_put {src a : Nat} {l : List Syl} {s : Sys} (hl : (s.lineLocked a && src != 1) = false)
    (hf : ((s.takeBack (a / 64)).mc (stackOf a)).fail = false) (hp : (s.takeBack (a / 64)).poison.contains (a / 32) = false)
    (he : tget 0 (s.takeBack (a / 64)).flips (a / 32) = 0) : (s.cwWrite src a l).mem = (s.put a l).mem := by
  have hr : stackOf (32 * (a / 32)) = stackOf a := by simp only [stackOf, stripeOf]; omega
  have hc : (s.takeBack (a / 64)).readCheck src (a / 32) = s.takeBack (a / 64) := by
    simp only [Sys.readCheck, hr, hf, hp, he, Bool.false_eq_true, if_false, if_true]
  have hm : ((s.takeBack (a / 64)).put a l).mem = (s.put a l).mem := by simp only [put_mem, takeBack_mem]
  simp only [Sys.cwWrite, hl, hf, hp, hc, Bool.false_eq_true, if_false]
  split
  · exact hm
  · split <;> exact hm

theorem cwWrite_wf (src a : Nat) (l : List Syl) (s : Sys) (h : Memory.wf s.mem = true) :
    Memory.wf (s.cwWrite src a l).mem = true := by
  rcases cwWrite_mem src a l s with e | ⟨u, hu, e⟩
  · rw [e]; exact h
  · have hw : Memory.wf u.mem = true := by
      rcases hu with hu | hu <;> rw [hu]
      · exact h
      · exact readCheck_wf _ _ _ (by rw [takeBack_mem]; exact h)
    rcases e with e | e <;> rw [e]
    · exact hw
    · exact put_wf _ _ _ hw

/-- A write changes nothing outside its code word. -/
theorem cwWrite_out (src a b : Nat) (l : List Syl) (s : Sys) (hn : a % 32 + l.length ≤ 32) (h : b / 32 ≠ a / 32) :
    mget (s.cwWrite src a l).mem b = mget s.mem b := by
  rcases cwWrite_mem src a l s with e | ⟨u, hu, e⟩
  · rw [e]
  · have hw : mget u.mem b = mget s.mem b := by
      rcases hu with hu | hu <;> rw [hu]
      rw [readCheck_out _ _ _ _ h, takeBack_mem]
    rcases e with e | e <;> rw [e]
    · exact hw
    · rw [put_out _ _ _ _ (by omega)]; exact hw

theorem spanWrite_wf (src n a : Nat) (l : List Syl) (s : Sys) (h : Memory.wf s.mem = true) :
    Memory.wf (s.spanWrite src n a l).mem = true := by
  induction n generalizing a l s with
  | zero => exact h
  | succ n ih =>
    unfold Sys.spanWrite
    split
    · exact h
    · exact ih _ _ _ (cwWrite_wf _ _ _ _ h)

theorem spanWrite_out (src n a b : Nat) (l : List Syl) (s : Sys) (h : b / 32 < a / 32 ∨ a + l.length ≤ 32 * (b / 32)) :
    mget (s.spanWrite src n a l).mem b = mget s.mem b := by
  induction n generalizing a l s with
  | zero => rfl
  | succ n ih =>
    unfold Sys.spanWrite
    split
    · rfl
    · rename_i hl
      have hne : l ≠ [] := by
        intro hc
        simp [hc] at hl
      have hpos : 0 < l.length := List.length_pos_iff.mpr hne
      simp only
      by_cases hs : l.length ≤ 32 - a % 32
      · rw [show l.drop (32 - a % 32) = [] from List.drop_eq_nil_iff.mpr hs]
        have hz : ∀ (n : Nat) (a : Nat) (t : Sys), t.spanWrite src n a [] = t := by
          intro n a t
          cases n <;> simp [Sys.spanWrite]
        rw [hz]
        exact cwWrite_out _ _ _ _ _ (by rw [List.length_take]; omega) (by omega)
      · rw [ih _ _ _ (by simp only [List.length_drop]; omega)]
        exact cwWrite_out _ _ _ _ _ (by rw [List.length_take]; omega) (by omega)

/-- A write keeps the canonical form. -/
theorem wrBy_wf (src a : Nat) (l : List Syl) (s : Sys) (h : Memory.wf s.mem = true) : Memory.wf (s.wrBy src a l).mem = true :=
  spanWrite_wf src _ a l s h

theorem wr_wf (a : Nat) (l : List Syl) (s : Sys) (h : Memory.wf s.mem = true) : Memory.wf (s.wr a l).mem = true :=
  wrBy_wf 6 a l s h

/-- A write changes no syllable outside the code words that it touches. -/
theorem wrBy_out (src a b : Nat) (l : List Syl) (s : Sys) (h : b / 32 < a / 32 ∨ a + l.length ≤ 32 * (b / 32)) :
    mget (s.wrBy src a l).mem b = mget s.mem b := spanWrite_out src _ a b l s h

theorem wr_out (a b : Nat) (l : List Syl) (s : Sys) (h : b / 32 < a / 32 ∨ a + l.length ≤ 32 * (b / 32)) :
    mget (s.wr a l).mem b = mget s.mem b := wrBy_out 6 a b l s h

theorem wrFree_wf (a n : Nat) (s : Sys) (h : Memory.wf s.mem = true) : Memory.wf (s.wrFree a n).mem = true := by
  induction n generalizing a s with
  | zero => exact h
  | succ n ih =>
    unfold Sys.wrFree
    refine ih _ _ ?_
    split
    · exact h
    · exact put_wf _ _ _ h

theorem retryLate_wf (s : Sys) (h : Memory.wf s.mem = true) : Memory.wf s.retryLate.mem = true :=
  foldl_wf (fun (t : Sys) (x : Nat × Nat × List Syl) => t.cwWrite x.1 x.2.1 x.2.2) (fun t x => cwWrite_wf x.1 x.2.1 x.2.2 t) s.late
    { s with late := [] } h

/-! ## Storage keys -/

@[simp] theorem cacheKey_mem (s : Sys) (c f : Nat) (y : Syl) : (s.cacheKey c f y).mem = s.mem := by
  unfold Sys.cacheKey
  simp only
  split <;> rfl

theorem keyFor_wf (s : Sys) (k pa : Nat) (h : Memory.wf s.mem = true) : Memory.wf (s.keyFor k pa).2.mem = true := by
  unfold Sys.keyFor
  simp only
  split
  · exact h
  · split
    · exact fetchFor_wf _ _ _ _ h
    · rw [cacheKey_mem]
      exact fetchFor_wf _ _ _ _ h

/-- The key store is the only memory that USED and ALTERED change. -/
theorem touchStore_mem (src pa : Nat) (w : Bool) (s : Sys) : (s.touchStore src pa w).mem = s.mem ∨
    ∃ y, (s.touchStore src pa w).mem = (s.wrBy src (s.keyAddr pa) [y]).mem := by
  unfold Sys.touchStore
  simp only
  split
  · exact .inl rfl
  · split
    · exact .inl rfl
    · exact .inr ⟨_, rfl⟩

theorem touchStore_wf (src pa : Nat) (w : Bool) (s : Sys) (h : Memory.wf s.mem = true) :
    Memory.wf (s.touchStore src pa w).mem = true := by
  rcases touchStore_mem src pa w s with e | ⟨y, e⟩ <;> rw [e]
  · exact h
  · exact wrBy_wf _ _ _ _ h

theorem touchKey_mem (k pa : Nat) (w : Bool) (s : Sys) :
    (s.touchKey k pa w).mem = s.mem ∨ (s.touchKey k pa w).mem = (s.touchStore 0 pa w).mem := by
  unfold Sys.touchKey
  split
  · exact .inl rfl
  · split
    · split
      · exact .inl rfl
      · simp only
        split
        · exact .inr (cacheKey_mem _ _ _ _)
        · exact .inr rfl
    · exact .inr rfl

theorem touchKey_wf (k pa : Nat) (w : Bool) (s : Sys) (h : Memory.wf s.mem = true) : Memory.wf (s.touchKey k pa w).mem = true := by
  rcases touchKey_mem k pa w s with e | e <;> rw [e]
  · exact h
  · exact touchStore_wf _ _ _ _ h

end Sys2Proof.Machine
end

