-- ==== Sys2Proof/Tests/Slice0.lean ====
section
/-! SUPPORT. Tests: worked examples of the spec on single commands, ill-formed terms that the check refuses, and witnesses:
states and operands that meet the hypotheses of each statement together. -/

namespace Sys2Proof.Tests

open Sys2Proof Sys2Proof.Machine
set_option Elab.async false

/-! ## How a witness is shown -/

def isOk {α : Type} : EStateM.Result Stop Sys α → Bool
  | .ok _ _ => true
  | .error _ _ => false
def excOf {α : Type} : EStateM.Result Stop Sys α → Option Exc
  | .ok _ _ => none
  | .error (.exc e false) _ => some e
  | .error _ _ => none
def endOf {α : Type} : EStateM.Result Stop Sys α → Sys
  | .ok _ s => s
  | .error _ s => s
def valOf {α : Type} (d : α) : EStateM.Result Stop Sys α → α
  | .ok v _ => v
  | .error _ _ => d

theorem ends_of {α : Type} (d : α) {m : M α} {s : Sys} (h : isOk (m.run s) = true) : Ends m s (valOf d (m.run s)) (endOf (m.run s)) := by
  unfold Ends
  cases hm : m.run s with
  | ok v s' => rfl
  | error e s' => rw [hm] at h; cases h

theorem meets_of {α : Type} {m : M α} {s : Sys} {e : Exc} (h : excOf (m.run s) = some e) : Meets m s e (endOf (m.run s)) := by
  unfold Meets
  cases hm : m.run s with
  | ok v s' => rw [hm] at h; cases h
  | error f s' =>
    rw [hm] at h
    cases f with
    | exc g k =>
      cases k with
      | false => cases h; rfl
      | true => cases h
    | stay => cases h
    | irq => cases h
    | gone => cases h
    | other => cases h

/-- The fetch of an instruction, and the state after it. -/
def fetchOf (a : Issue) (i : Instr) (len : Nat) : M Unit := do fetch a i true; loopCheck a.core len
def after (a : Issue) (i : Instr) (len : Nat) (s : Sys) : Sys := endOf ((fetchOf a i len).run (s.closeShadow a.core))

theorem issued_of {a : Issue} {i : Instr} {len : Nat} {s : Sys} (h0 : a.hw = .none)
    (h1 : (s.closeShadow a.core).canIssue a.core = true)
    (h2 : isOk ((fetchOf a i len).run (s.closeShadow a.core)) = true) : Issued a i len s (after a i len s) :=
  ⟨h0, h1, ends_of () h2⟩

/-- The machine with an instruction's word at address 0x1000. -/
def on (i : Instr) (s : State) : State :=
  match encodeWord i with
  | some (n, w) => { s with sys := { s.sys with mem := msets s.sys.mem 0x1000 ((sylsW w).take n) } }
  | none => s
/-- The state after the fetch of an instruction of 4 syllables, or of 2, at 0x1000. -/
def s4of (a : Issue) (i : Instr) (s : State) : Sys := after a i 4 (on i s).sys
def s2of (a : Issue) (i : Instr) (s : State) : Sys := after a i 2 (on i s).sys

/-! ## A machine with one running core -/

/-- A direct extent over the first 256 MiB of the address space, with every right. -/
def extAll : DWord := mkd (mkw 36 [(0, 1), (2, 1), (3, 1), (4, 1)]) (mkw 36 [(15, 0xFFFF)])
/-- A supervisor context of Custody (W, SUP) or of partition 1, at address 0x1000. -/
def ctxC : Ctx := { pc := 0x1000, status := mkw 36 [(0, 1), (1, 1)], wc := { exts := [(0, extAll)] }, sspC := 0x4000,
                    partid := partIdOf true 0 }
def ctxO : Ctx := { pc := 0x1000, status := mkw 36 [(1, 1)], wo := { exts := [(0, extAll)] }, sspO := 0x4000,
                    partid := partIdOf false 1 }
/-- Its core: slot 0, bank 0, both computing units owned by its task. -/
def coreOf (x : Ctx) : Core :=
  { slot := some 0, cur := some 0, banks := [(0, x)], fu := { owner := some 0 }, du := { owner := some 0 } }
def sysOf (x : Ctx) : Sys :=
  { mem := [],
    cores := [(0, coreOf x)], camp := [(0, { tasks := [(0, { state := 2, resid := some (0, 0), noPart := true, w := true })] })],
    tansy := { slots := [(0, { st := .active 0 })] } }
def cpuC : State := { sys := sysOf ctxC }
def cpuO : State := { sys := sysOf ctxO }
/-- A command of the shelf bus that nobody contends for and that is acknowledged. -/
def busY : BusCyc := { idle := 0, rivals := [], rsp := .ack }
def i0 : Issue := { core := 0, irqAt := 0, hw := .none }
/-- The machine of `cpuC` with general registers and memory. -/
def cpuG (g : Tbl Word) (m : Tbl Syl) : State := { sys := { sysOf { ctxC with g := g } with mem := m } }

theorem issued4 {i : Instr} {s : State} (h1 : ((on i s).sys.closeShadow i0.core).canIssue i0.core = true)
    (h2 : isOk ((fetchOf i0 i 4).run ((on i s).sys.closeShadow i0.core)) = true) : Issued i0 i 4 (on i s).sys (s4of i0 i s) :=
  issued_of rfl h1 h2
theorem issued2 {i : Instr} {s : State} (h1 : ((on i s).sys.closeShadow i0.core).canIssue i0.core = true)
    (h2 : isOk ((fetchOf i0 i 2).run ((on i s).sys.closeShadow i0.core)) = true) : Issued i0 i 2 (on i s).sys (s2of i0 i s) :=
  issued_of rfl h1 h2
/-- An instruction of 4 syllables, and one of 2, issues on core 0 of the machine. -/
abbrev Goes4 (i : Instr) (s : State) : Prop := Issued i0 i 4 (on i s).sys (s4of i0 i s)
abbrev Goes2 (i : Instr) (s : State) : Prop := Issued i0 i 2 (on i s).sys (s2of i0 i s)

/-! ## Witnesses of the statements' hypotheses -/

theorem test_wit_StepRunsFront : State.reset.pending = [] := rfl

theorem test_wit_IntegerWordResults : Goes4 (.add i0 (.iop 3 4 5)) cpuC ∧ Goes2 (.add i0 (.short 3 4)) cpuC :=
  ⟨issued4 (by decide +kernel) (by decide +kernel), issued2 (by decide +kernel) (by decide +kernel)⟩
theorem test_wit_IntegerPairResults : Goes4 (.add i0 (.iopd 2 4 6)) cpuC ∧ Goes2 (.movd i0 2 4) cpuC :=
  ⟨issued4 (by decide +kernel) (by decide +kernel), issued2 (by decide +kernel) (by decide +kernel)⟩
theorem test_wit_IntegerImmediateResults : Goes2 (.lis i0 3 7) cpuC ∧ Goes4 (.addi i0 3 4 7) cpuC ∧ Goes4 (.shli i0 true 2 4 71) cpuC :=
  ⟨issued2 (by decide +kernel) (by decide +kernel), issued4 (by decide +kernel) (by decide +kernel),
   issued4 (by decide +kernel) (by decide +kernel)⟩
theorem test_wit_CheckedIntegerResults :
    Goes4 (.addv i0 true 2 4 6) cpuC ∧ (2 : Reg).val % 2 = 0 ∧ Goes4 (.addv i0 true 3 4 6) cpuC ∧ (3 : Reg).val % 2 = 1 :=
  ⟨issued4 (by decide +kernel) (by decide +kernel), by decide, issued4 (by decide +kernel) (by decide +kernel), by decide⟩

/-- LW G3,G1 and SW G3,G1 and their pair forms, with G1 = 0x2000, and the same with 0x2002. -/
def cpuL (b : Word) : State := cpuG [(1, b)] []
def sLW (b : Word) : Sys := s4of i0 (.lw i0 3 1 0) (cpuL b)
def sLDW : Sys := s4of i0 (.ldw i0 2 1 0) (cpuL 0x2000)
theorem test_wit_LoadResults :
    (Goes4 (.lw i0 3 1 0) (cpuL 0x2000) ∧ isOk ((loadN 0 4 (((sLW 0x2000).gr 0 1).toNat + 0)).run (sLW 0x2000)) = true) ∧
    (Goes4 (.lw i0 3 1 0) (cpuL 0x2002) ∧ excOf ((loadN 0 4 (((sLW 0x2002).gr 0 1).toNat + 0)).run (sLW 0x2002)) =
      some { cls := 1, code := 4, acc := 2, faddr := 0x2002 }) ∧
    Goes4 (.ldw i0 2 1 0) (cpuL 0x2000) ∧ isOk ((loadAs 0 8 ((sLDW.gr 0 1).toNat + 0) true).run sLDW) = true ∧
    Goes2 (.lws i0 3 1 0) (cpuL 0x2000) :=
  ⟨⟨issued4 (by decide +kernel) (by decide +kernel), by decide +kernel⟩,
   ⟨issued4 (by decide +kernel) (by decide +kernel), by decide +kernel⟩, issued4 (by decide +kernel) (by decide +kernel),
   by decide +kernel, issued2 (by decide +kernel) (by decide +kernel)⟩

def sSW (b : Word) : Sys := s4of i0 (.sw i0 3 1 0) (cpuL b)
theorem test_wit_StoreResults :
    (Goes4 (.sw i0 3 1 0) (cpuL 0x2000) ∧ isOk ((storeN 0 0x2000 (sylsOf 4 0)).run (sSW 0x2000)) = true) ∧
    (Goes4 (.sw i0 3 1 0) (cpuL 0x2001) ∧ excOf ((storeN 0 0x2001 (sylsOf 4 0)).run (sSW 0x2001)) =
      some { cls := 1, code := 4, acc := 3, faddr := 0x2001 }) ∧
    Goes2 (.sws i0 3 1 0) (cpuL 0x2000) ∧ Goes4 (.sdw i0 2 1 0) (cpuL 0x2000) :=
  ⟨⟨issued4 (by decide +kernel) (by decide +kernel), by decide +kernel⟩,
   ⟨issued4 (by decide +kernel) (by decide +kernel), by decide +kernel⟩, issued2 (by decide +kernel) (by decide +kernel),
   issued4 (by decide +kernel) (by decide +kernel)⟩

/-- The lowest and highest addresses that a word load reaches, and the two next to them that it does not; a load from a store
that waits. -/
def sA : Sys := (cpuL 0x2000).sys
def sX : Sys := endOf ((xlate 0 0 (sA.ctx 0) (sA.ctx 0).status 2 0xFFFFFFC false).run sA)
def sQ : Sys := endOf ((storeN 0 0x2000 (sylsOf 4 7)).run sA)
theorem test_wit_DataAccesses :
    isOk ((loadN 0 4 0).run sA) = true ∧ excOf ((loadN 0 4 (-4)).run sA) = some { cls := 2, code := 1, acc := 2, faddr := 0xFFFFFFFFC } ∧
    excOf ((loadN 0 4 (2 ^ 36)).run sA) = some { cls := 2, code := 1, acc := 2, faddr := 0 } ∧
    isOk ((xlate 0 0 (sA.ctx 0) (sA.ctx 0).status 2 0xFFFFFFC false).run sA) = true ∧ (sX.core 0).sq = [] ∧
    sX.blockedLine 0 false 0xFFFFFFC 4 = none ∧ (sX.useSpan 0 false 0xFFFFFFC 4).poisonAt 0 false 0xFFFFFFC 4 = none ∧ sX.flips = [] ∧
    isOk ((storeN 0 0xFFFFFFC (sylsOf 4 7)).run sA) = true ∧ (sX.core 0).sq.length < 48 ∧
    (∃ e, (sQ.core 0).sq = [] ++ e :: [] ∧ e.holds 0x2000 4 = true) := by
  refine ⟨by decide +kernel, by decide +kernel, by decide +kernel, by decide +kernel, by decide +kernel, by decide +kernel,
    by decide +kernel, by decide +kernel, by decide +kernel, by decide +kernel, ((sQ.core 0).sq[0]?).getD
      { pa := 0, va := 0, data := [], bank := 0, world := true, sup := true, leaf := none }, by decide +kernel, by decide +kernel⟩

theorem test_wit_BranchResults : Goes2 (.beqz i0 3 8) cpuC ∧ Goes4 (.beq i0 3 4 8) cpuC ∧ Goes2 (.brs i0 8) cpuC ∧ Goes4 (.br i0 8) cpuC :=
  ⟨issued2 (by decide +kernel) (by decide +kernel), issued4 (by decide +kernel) (by decide +kernel),
   issued2 (by decide +kernel) (by decide +kernel), issued4 (by decide +kernel) (by decide +kernel)⟩

/-- A context with one return address in the bank, and one with it in memory. -/
def cpuR (l : List Word) (rsp : Word) : State :=
  { sys := sysOf { ctxC with wc := { ctxC.wc with rbank := l, rsp := rsp, rsb := 0x3000, rsl := 0x3800 } } }
def sR (l : List Word) (rsp : Word) : Sys := s2of i0 (.ret i0) (cpuR l rsp)
theorem test_wit_CallReturnLoop :
    (Goes4 (.call i0 8) cpuC ∧ ((s4of i0 (.call i0 8) cpuC).ctx 0).cur.rbank.length < 16) ∧
    (Goes4 (.callr i0 5) cpuC ∧ ((s4of i0 (.callr i0 5) cpuC).gr 0 5).getLsbD 0 = false) ∧ Goes4 (.jr i0 5) cpuC ∧
    (Goes2 (.ret i0) (cpuR [0x1001] 0x3000) ∧ ((sR [0x1001] 0x3000).ctx 0).cur.rbank = [] ++ [0x1001]) ∧
    (Goes2 (.ret i0) (cpuR [] 0x3004) ∧ isOk ((loadW 0 0x3000).run (sR [] 0x3004)) = true) ∧ Goes2 (.ret i0) (cpuR [] 0x3000) ∧
    Goes4 (.loop i0 0 4) cpuC ∧ (Goes4 (.loop i0 5 4) (cpuG [(5, 2)] []) ∧ (s4of i0 (.loop i0 5 4) (cpuG [(5, 2)] [])).gr 0 5 ≠ 0) :=
  ⟨⟨issued4 (by decide +kernel) (by decide +kernel), by decide +kernel⟩,
   ⟨issued4 (by decide +kernel) (by decide +kernel), by decide +kernel⟩, issued4 (by decide +kernel) (by decide +kernel),
   ⟨issued2 (by decide +kernel) (by decide +kernel), by decide +kernel⟩,
   ⟨issued2 (by decide +kernel) (by decide +kernel), by decide +kernel⟩, issued2 (by decide +kernel) (by decide +kernel),
   issued4 (by decide +kernel) (by decide +kernel), issued4 (by decide +kernel) (by decide +kernel), by decide +kernel⟩

/-- The units of core 0 belong to its task. -/
theorem owns_d {s : Sys} (h : (s.core 0).du.owner = some (s.ctx 0).taskid.toNat) : s.ownsD 0 := h
theorem owns_f {s : Sys} (h : (s.core 0).fu.owner = some (s.ctx 0).taskid.toNat) : s.ownsF 0 := h
theorem test_wit_ControlRegisterReads :
    (Goes4 (.getc i0 3 0o061) cpuC ∧ (s4of i0 (.getc i0 3 0o061) cpuC).ownsD 0) ∧
    (Goes4 (.getc i0 3 0o062) cpuC ∧ (s4of i0 (.getc i0 3 0o062) cpuC).ownsF 0) ∧
    (Goes4 (.getc2 i0 2 0o100) cpuC ∧ ((s4of i0 (.getc2 i0 2 0o100) cpuC).ctx 0).sup = true) ∧
    (Goes4 (.getc i0 3 0o777) cpuC ∧ cregAcc 0o777 = none) :=
  ⟨⟨issued4 (by decide +kernel) (by decide +kernel), owns_d (by decide +kernel)⟩,
   ⟨issued4 (by decide +kernel) (by decide +kernel), owns_f (by decide +kernel)⟩,
   ⟨issued4 (by decide +kernel) (by decide +kernel), by decide +kernel⟩, issued4 (by decide +kernel) (by decide +kernel), by decide +kernel⟩
theorem test_wit_ControlRegisterWrites :
    (Goes4 (.putc i0 3 0o061) cpuC ∧ (s4of i0 (.putc i0 3 0o061) cpuC).ownsD 0) ∧ Goes4 (.putc i0 3 0) cpuC ∧
    (Goes4 (.putc2 i0 2 0o062) cpuC ∧ (s4of i0 (.putc2 i0 2 0o062) cpuC).ownsF 0) ∧
    (Goes4 (.putc2 i0 2 0o100) cpuC ∧ extV ((s4of i0 (.putc2 i0 2 0o100) cpuC).gp 0 2) = false) :=
  ⟨⟨issued4 (by decide +kernel) (by decide +kernel), owns_d (by decide +kernel)⟩, issued4 (by decide +kernel) (by decide +kernel),
   ⟨issued4 (by decide +kernel) (by decide +kernel), owns_f (by decide +kernel)⟩,
   issued4 (by decide +kernel) (by decide +kernel), by decide +kernel⟩

/-- A problem-state context of the Operating world with access key 1. -/
def cpuU : State := { sys := sysOf { ctxO with status := mkw 36 [(7, 1)], wo := { exts := [(0, setBit extAll 5 true)] } } }
/-- A machine whose running task has an event. -/
def cpuE : State := { sys := { cpuC.sys with
  camp := [(0, { tasks := [(0, { state := 2, resid := some (0, 0), noPart := true, w := true, events := 4 })] })] } }

theorem test_wit_SystemInstructions :
    Goes4 (.svc i0 1) cpuU ∧ (Goes4 (.shield i0 1) cpuU ∧ ((s4of i0 (.shield i0 1) cpuU).ctx 0).sup = false) ∧
    (Goes4 (.shield i0 1) cpuC ∧ ((s4of i0 (.shield i0 1) cpuC).ctx 0).sup = true) ∧
    (Goes4 (.rsflush i0) cpuC ∧ isOk ((flushLoop 0 16).run (s4of i0 (.rsflush i0) cpuC)) = true) ∧ Goes4 (.fence i0 true) cpuC ∧
    (Goes4 (.wait i0 true) cpuC ∧ (s4of i0 (.wait i0 true) cpuC).runTask 0 = some 0 ∧
      ((s4of i0 (.wait i0 true) cpuC).task 0 0).events = 0 ∧ i0.irqAt = 0) ∧
    (Goes2 (.wait i0 false) cpuE ∧ ((s2of i0 (.wait i0 false) cpuE).task 0 0).events ≠ 0) ∧
    (Goes4 (.xret i0) cpuC ∧ (((s4of i0 (.xret i0) cpuC).ctx 0).ssp true).toNat % 32 = 0 ∧
      isOk ((loadFrame 0 0x4000).run (s4of i0 (.xret i0) cpuC)) = true ∧ badFrame 0 0 0 = false ∧
      valOf [] ((loadFrame 0 0x4000).run (s4of i0 (.xret i0) cpuC)) = [0, 0, 0, 0, 0, 0, 0, 0]) :=
  ⟨issued4 (by decide +kernel) (by decide +kernel), ⟨issued4 (by decide +kernel) (by decide +kernel), by decide +kernel⟩,
   ⟨issued4 (by decide +kernel) (by decide +kernel), by decide +kernel⟩,
   ⟨issued4 (by decide +kernel) (by decide +kernel), by decide +kernel⟩, issued4 (by decide +kernel) (by decide +kernel),
   ⟨issued4 (by decide +kernel) (by decide +kernel), by decide +kernel⟩,
   ⟨issued2 (by decide +kernel) (by decide +kernel), by decide +kernel⟩,
   issued4 (by decide +kernel) (by decide +kernel), by decide +kernel⟩

def sK : Sys := s4of i0 (.skset i0 3 4) cpuC
theorem test_wit_InvalidationsAndKeys :
    (Goes4 (.ivall i0) cpuU ∧ ((s4of i0 (.ivall i0) cpuU).ctx 0).sup = false) ∧
    (Goes4 (.ivall i0) cpuC ∧ ((s4of i0 (.ivall i0) cpuC).ctx 0).sup = true) ∧
    (Goes4 (.skset i0 3 4) cpuC ∧ (sK.ctx 0).sup = true ∧ (sK.ctx 0).custody = true ∧ (sK.gr 0 3).toNat < 2 ^ 38 ∧
      sK.poisoned (sK.keyAddr 0) = false ∧ fld (sK.gr 0 4) 0 27 = 0 ∧
      (List.range 96).all (fun j => (sK.drainAllSq.core j).sq.isEmpty) = true) ∧
    (Goes4 (.skget i0 3 4) cpuO ∧ ((s4of i0 (.skget i0 3 4) cpuO).ctx 0).custody = false ∧
      (s4of i0 (.skget i0 3 4) cpuO).inRanges 1 0 = false) :=
  ⟨⟨issued4 (by decide +kernel) (by decide +kernel), by decide +kernel⟩,
   ⟨issued4 (by decide +kernel) (by decide +kernel), by decide +kernel⟩,
   ⟨issued4 (by decide +kernel) (by decide +kernel), by decide +kernel⟩,
   issued4 (by decide +kernel) (by decide +kernel), by decide +kernel⟩

theorem test_wit_ExceptionEntry : cpuC.sys.running 0 = some (0, ctxC) ∧ (cpuC.sys.core 0).sq.length ≤ 44 ∧
    Ends (enterM 0 { cls := 1, code := 1 } true 0x1000) cpuC.sys () (endOf ((enterM 0 { cls := 1, code := 1 } true 0x1000).run cpuC.sys)) :=
  ⟨by decide +kernel, by decide +kernel, ends_of () (by decide +kernel)⟩

theorem test_wit_MultiplyResults : Goes4 (.mulw i0 2 4 5) cpuC := issued4 (by decide +kernel) (by decide +kernel)
theorem test_wit_DivideResults : Goes4 (.divd i0 2 4 6) cpuC := issued4 (by decide +kernel) (by decide +kernel)
/-- The products at 0 and 4, and a misaligned one; a core whose divider is in table mode. -/
def cpuY (a b : Word) : State := cpuG [(4, a), (5, b)] []
def sM (a b : Word) : Sys := s4of i0 (.mac2 i0 4 5 false false true) (cpuY a b)
theorem test_wit_MultiplyAccumulate :
    (Goes4 (.mac2 i0 4 5 false false true) (cpuY 0 4) ∧ (sM 0 4).ownsF 0 ∧ isOk ((macLoads 0 0 4).run (sM 0 4)) = true) ∧
    (Goes4 (.mac2 i0 4 5 false false true) (cpuY 2 4) ∧ (sM 2 4).ownsF 0 ∧
      excOf ((macLoads 0 2 4).run (sM 2 4)) = some { cls := 1, code := 4, acc := 2, faddr := 2 }) ∧
    (isOk ((macPlace 0 0).run sA) = true ∧ isOk ((macPlace 0 4).run (endOf ((macPlace 0 0).run sA))) = true ∧
      excOf ((macPlace 0 2).run sA) = some { cls := 1, code := 4, acc := 2, faddr := 2 }) ∧
    ((cpuC.sys.core 0).slot = some 0 ∧ (cpuC.sys.core 0).divm = true ∧ (cpuC.sys.slot 0).divFails < 3) :=
  ⟨⟨issued4 (by decide +kernel) (by decide +kernel), owns_f (by decide +kernel), by decide +kernel⟩,
   ⟨issued4 (by decide +kernel) (by decide +kernel), owns_f (by decide +kernel), by decide +kernel⟩, by decide +kernel, by decide +kernel⟩
theorem test_wit_FloatArithmetic :
    (Goes4 (.fadd i0 true 15 1 2) cpuC ∧ (s4of i0 (.fadd i0 true 15 1 2) cpuC).ownsF 0 ∧ (15 : Reg).val < 16) ∧
    Goes4 (.fadd i0 true 16 1 2) cpuC ∧ 16 ≤ (16 : Reg).val :=
  ⟨⟨issued4 (by decide +kernel) (by decide +kernel), owns_f (by decide +kernel), by decide⟩,
   issued4 (by decide +kernel) (by decide +kernel), by decide⟩
def sF : Sys := s4of i0 (.fld i0 3 1 0) (cpuL 0x2000)
def sG : Sys := s4of i0 (.fst i0 3 1 0) (cpuL 0x2000)
theorem test_wit_FloatMovesAndConversions :
    (Goes4 (.fmov i0 true 3 1) cpuC ∧ (s4of i0 (.fmov i0 true 3 1) cpuC).ownsF 0) ∧
    (Goes4 (.fld i0 3 1 0) (cpuL 0x2000) ∧ sF.ownsF 0 ∧ isOk ((loadD 0 0x2000).run sF) = true) ∧
    (Goes4 (.fst i0 3 1 0) (cpuL 0x2000) ∧ sG.ownsF 0 ∧ isOk ((storeN 0 0x2000 (sylsD 0)).run sG) = true) :=
  ⟨⟨issued4 (by decide +kernel) (by decide +kernel), owns_f (by decide +kernel)⟩,
   ⟨issued4 (by decide +kernel) (by decide +kernel), owns_f (by decide +kernel), by decide +kernel⟩,
   issued4 (by decide +kernel) (by decide +kernel), owns_f (by decide +kernel), by decide +kernel⟩

theorem ok_bind {α β : Type} {m : M α} {f : α → M β} {s : Sys} (h : isOk ((m >>= f).run s) = true) :
    ∃ v s', Ends m s v s' ∧ isOk ((f v).run s') = true := by
  have e : (m >>= f).run s = match m.run s with
      | .ok v s' => (f v).run s'
      | .error e s' => .error e s' := by
    simp only [bind, EStateM.bind, EStateM.run]
    split <;> rename_i h <;> simp [h]
  rw [e] at h
  cases hm : m.run s with
  | ok v s' => rw [hm] at h; exact ⟨v, s', hm, h⟩
  | error x s' => rw [hm] at h; cases h

theorem ok_end {m : M Unit} {s : Sys} (h : isOk (m.run s) = true) : ∃ s', Ends m s () s' := ⟨_, ends_of () h⟩

/-- Decimal fields of two syllables at 0x2000 (12+) and 0x2010 (3-), named by G1 and G2. -/
def cpuD : State := cpuG [(1, 0x2000), (2, 0x2010)] [(0x2000, 0x01), (0x2001, 0x2C), (0x2010, 0x00), (0x2011, 0x3D)]
def iDA : Instr := .dadd i0 1 2 1 1
def iDD : Instr := .ddiv i0 1 2 1 1
def sD : Sys := s4of i0 iDA cpuD
def sV : Sys := s4of i0 iDD cpuD
/-- The same with a field of two zoned digits (43) at 0x2020 in G3, and with the pairs of G4 and G6. -/
def cpuZ : State := cpuG [(1, 0x2000), (2, 0x2010), (3, 0x2020), (5, 0o0014), (7, 0o0014)]
  [(0x2000, 0x01), (0x2001, 0x2C), (0x2010, 0x00), (0x2011, 0x3D), (0x2020, 0xF4), (0x2021, 0xC3)]

theorem test_wit_DecimalOperandAndResultRules :
    (∃ p s1 l s2, Ends (oneSpan 0 1 1 2) sD p s1 ∧ Ends (p.read 0) s1 l s2) ∧ packedBad [0x01, 0x2C] 0 = none ∧
    packedBad [0x0A, 0x2C] 0 = some 0 ∧ decOverflows 999 3 = false ∧ decOverflows 1000 3 = true ∧
    (∃ p s1 s2 s3, Ends (oneSpan 0 1 1 3) sD p s1 ∧ Ends (p.ready 0) s1 () s2 ∧ Ends (packedOut 0 p 2 12 false) s2 () s3) := by
  have h : isOk ((do let p ← oneSpan 0 1 1 2; let _ ← p.read 0 : M Unit).run sD) = true := by decide +kernel
  have g : isOk ((do let p ← oneSpan 0 1 1 3; p.ready 0; packedOut 0 p 2 12 false : M Unit).run sD) = true := by decide +kernel
  obtain ⟨p, s1, h1, h⟩ := ok_bind h
  obtain ⟨l, s2, h2, h⟩ := ok_bind h
  obtain ⟨q, t1, g1, g⟩ := ok_bind g
  obtain ⟨_, t2, g2, g⟩ := ok_bind g
  obtain ⟨t3, g3⟩ := ok_end g
  exact ⟨⟨p, s1, l, s2, h1, h2⟩, by decide, by decide, by decide, by decide, q, t1, t2, t3, g1, g2, g3⟩

theorem test_wit_DecimalMemoryResults : Goes4 iDA cpuD ∧
    ∃ p x y s4 s5, Both 0 1 2 1 1 true sD p x y s4 ∧ Ends (packedOut 0 p.1 (lenOf 1) (x + y) false) s4 () s5 := by
  have h : isOk ((do
    let p ← twoSpans 0 1 2 1 1 true true
    let x ← packedIn 0 p.1
    let y ← packedIn 0 p.2
    packedOut 0 p.1 (lenOf 1) (x + y) false : M Unit).run sD) = true := by decide +kernel
  obtain ⟨p, s2, h1, h⟩ := ok_bind h
  obtain ⟨x, s3, h2, h⟩ := ok_bind h
  obtain ⟨y, s4, h3, h⟩ := ok_bind h
  obtain ⟨s5, h4⟩ := ok_end h
  exact ⟨issued4 (by decide +kernel) (by decide +kernel), p, x, y, s4, s5, ⟨s2, s3, h1, h2, h3⟩, h4⟩

theorem test_wit_DecimalDivides : Goes4 iDD cpuD ∧ sV.ownsD 0 ∧
    ∃ p s2 x s3 y s4 s5, Ends (twoSpans 0 1 2 1 1 true true) sV p s2 ∧ (s2.core 0).du.held = none ∧
      Ends (packedIn 0 p.1) s2 x s3 ∧ Ends (packedIn 0 p.2) s3 y s4 ∧ y ≠ 0 ∧
      Ends (packedOut 0 p.1 (lenOf 1) (divResult .div 0 0 x y).1 (divResult .div 0 0 x y).2) s4 () s5 := by
  have h : isOk ((do
    let p ← twoSpans 0 1 2 1 1 true true
    let s ← (get : M Sys)
    let x ← packedIn 0 p.1
    let y ← packedIn 0 p.2
    let _ ← (if y ≠ 0 ∧ (s.core 0).du.held = none then pure () else throw .stay : M Unit)
    packedOut 0 p.1 (lenOf 1) (divResult .div 0 0 x y).1 (divResult .div 0 0 x y).2 : M Unit).run sV) = true := by decide +kernel
  obtain ⟨p, s2, h1, h⟩ := ok_bind h
  obtain ⟨s, s2', h2, h⟩ := ok_bind h
  cases h2
  obtain ⟨x, s3, h3, h⟩ := ok_bind h
  obtain ⟨y, s4, h4, h⟩ := ok_bind h
  obtain ⟨_, s4', h5, h⟩ := ok_bind h
  obtain ⟨s5, h6⟩ := ok_end h
  by_cases c : y ≠ 0 ∧ (s2.core 0).du.held = none
  · rw [if_pos c] at h5
    cases h5
    exact ⟨issued4 (by decide +kernel) (by decide +kernel), owns_d (by decide +kernel), p, s2, x, s3, y, s4, s5, h1, c.2, h3, h4, c.1, h6⟩
  · rw [if_neg c] at h5
    cases h5

def sZ (i : Instr) : Sys := s4of i0 i cpuZ
theorem test_wit_DecimalUnaryResults :
    (Goes4 (.dtst i0 1 1) cpuZ ∧ isOk ((do let p ← oneSpan 0 1 1 2; let _ ← packedIn 0 p : M Unit).run (sZ (.dtst i0 1 1))) = true) ∧
    (Goes4 (.cvbp i0 1 4 1) cpuZ ∧
      isOk ((do let p ← oneSpan 0 1 1 3; packedOut 0 p 2 5 false : M Unit).run (sZ (.cvbp i0 1 4 1))) = true) ∧
    (Goes4 (.pack i0 1 3 1 1) cpuZ ∧ (sZ (.pack i0 1 3 1 1)).ownsD 0 ∧
      isOk ((do
        let p ← spanXl 0 3 0x2000 2
        let q ← spanXl 0 2 0x2020 2
        let y ← zonedIn 0 q
        packedOut 0 p 2 y false : M Unit).run (sZ (.pack i0 1 3 1 1))) = true) ∧
    (Goes2 (.daddr i0 4 6) cpuZ ∧ (s2of i0 (.daddr i0 4 6) cpuZ).ownsD 0 ∧
      isOk ((do
        let x ← pairIn 0 4
        let y ← pairIn 0 6
        let _ ← decOut 0 15 (x + y) false : M Unit).run (s2of i0 (.daddr i0 4 6) cpuZ)) = true) :=
  ⟨⟨issued4 (by decide +kernel) (by decide +kernel), by decide +kernel⟩,
   ⟨issued4 (by decide +kernel) (by decide +kernel), by decide +kernel⟩,
   ⟨issued4 (by decide +kernel) (by decide +kernel), owns_d (by decide +kernel), by decide +kernel⟩,
   issued2 (by decide +kernel) (by decide +kernel), owns_d (by decide +kernel), by decide +kernel⟩

/-- A counted string of two syllables from 0x2000 to 0x2010. -/
def cpuS : State := cpuG [(1, 2), (2, 0x2000), (3, 0x2010), (4, 0)] [(0x2000, 0x41), (0x2001, 0x42)]
def iMV : Instr := .mvs i0 true
def sS : Sys := s4of i0 iMV cpuS
theorem ends_done {m : M (Loop × StrEnd)} {s : Sys} (h : isOk (m.run s) = true)
    (hd : (valOf ({ g2 := 0, g3 := 0 }, .done) (m.run s)).2 = .done) :
    Ends m s ((valOf ({ g2 := 0, g3 := 0 }, .done) (m.run s)).1, .done) (endOf (m.run s)) := by
  have e := ends_of ({ g2 := 0, g3 := 0 }, StrEnd.done) h
  rw [show valOf ({ g2 := 0, g3 := 0 }, .done) (m.run s) = ((valOf ({ g2 := 0, g3 := 0 }, .done) (m.run s)).1, .done) from
    Prod.ext rfl hd] at e
  exact e

/-- The string machine at its start: the store queue drained, nothing held. -/
def sT : Sys := (endOf ((drain 0).run sS)).modCore 0 (fun c => { c with strHold := none })
def strS : Sys := endOf ((startPlain 0 4).run sT)
def strM : M (Loop × StrEnd) :=
  strLoop i0 (mvsOp 0) none (g1Rem ((strS.ctx 0).rdG 1) + 3)
    { g2 := ((strS.ctx 0).rdG 2).toNat, g3 := ((strS.ctx 0).rdG 3).toNat, src := [] }
theorem test_wit_StringInstructions :
    (Goes4 iMV cpuS ∧ kbit ((sS.ctx 0).rdG 1) 0 = false ∧ g1AtOnce ((sS.ctx 0).rdG 1) = false) ∧
    (Ends (drain 0) sS () (endOf ((drain 0).run sS)) ∧ (endOf ((drain 0).run sS)).strHeld 0 = none ∧
      Ends (startPlain 0 4) sT ([], []) strS) ∧
    (∃ l, Ends strM strS (l, .done) (endOf (strM.run strS)) ∧ isOk ((loseOctets l.ind).run (endOf (strM.run strS))) = true) ∧
    (Goes4 iMV cpuC ∧ g1AtOnce (((s4of i0 iMV cpuC).ctx 0).rdG 1) = true) :=
  ⟨⟨issued4 (by decide +kernel) (by decide +kernel), by decide +kernel, by decide +kernel⟩, ⟨ends_of () (by decide +kernel), by decide +kernel, rfl⟩,
   ⟨_, ends_done (by decide +kernel) (by decide +kernel), by decide +kernel⟩,
   issued4 (by decide +kernel) (by decide +kernel), by decide +kernel⟩
theorem test_wit_StringUnits :
    (kbit (sS.gr 0 1) 0 = false ∧ isOk ((drvExit 0 2 { g2 := 0x2000, g3 := 0x2010 }).run sS) = true) ∧
    ∃ y s1 s2, Ends (rdSyl 0 0x2000) sS y s1 ∧ Ends (wrSyl 0 0x2010 y) s1 () s2 := by
  have h : isOk ((do let y ← rdSyl 0 0x2000; wrSyl 0 0x2010 y : M Unit).run sS) = true := by decide +kernel
  obtain ⟨y, s1, h1, h⟩ := ok_bind h
  obtain ⟨s2, h2⟩ := ok_end h
  exact ⟨by decide +kernel, y, s1, s2, h1, h2⟩

/-- The machine of `cpuS` with page 0 and pattern table 0 in which `A` takes no digit and `B` takes one. -/
def tabsE : Tables :=
  { loaded := true, pages := [(0, { hdr := 1, ents := [] })],
    patterns := [(0, { hdr := 1, ents := [mkd (mkw 36 [(0, 1), (8, 0x41)]) 0, mkd (mkw 36 [(0, 1), (8, 0x42), (9, 1)]) 0] })] }
def cpuP : State :=
  { sys := { (cpuG [(1, 2), (2, 0x2000), (3, 0x2010), (4, mkw 36 [(11, 3)])] [(0x2000, 0x12), (0x2010, 0x42)]).sys with tabs := tabsE } }
def sP : Sys := s4of i0 (.cpq i0 3 0) cpuP
theorem test_wit_EditUnitsAndCodePages :
    (∃ y s1 z s2, Ends (rdSyl 0 0x2010) sP y s1 ∧ Ends (rdSyl 0 0x2000) s1 z s2 ∧ (octet y).toNat = 0x42 ∧
      hiNib (octet z) ≤ 9 ∧ fld (sP.gr 0 4) 6 11 ≠ 0) ∧
    (Goes4 (.cpq i0 3 0) cpuP ∧ (sP.gr 0 0).toNat ≤ 7 ∧ sP.pageOk (sP.ctx 0) 0 = true ∧ sP.pageOk (sP.ctx 0) 7 = false ∧
      sP.patOk (sP.ctx 0) 0 = true) := by
  have h : isOk ((do
    let y ← rdSyl 0 0x2010
    let z ← rdSyl 0 0x2000
    (if (octet y).toNat = 0x42 ∧ hiNib (octet z) ≤ 9 then pure () else throw .stay : M Unit) : M Unit).run sP) = true := by
    decide +kernel
  obtain ⟨y, s1, h1, h⟩ := ok_bind h
  obtain ⟨z, s2, h2, h⟩ := ok_bind h
  by_cases c : (octet y).toNat = 0x42 ∧ hiNib (octet z) ≤ 9
  · exact ⟨⟨y, s1, z, s2, h1, h2, c.1, c.2, by decide +kernel⟩, issued4 (by decide +kernel) (by decide +kernel), by decide +kernel⟩
  · rw [if_neg c] at h
    cases h

/-- A state area at 0x2000 in G2, whose SHA working state the unit holds. -/
def cpuH : State :=
  { sys := { (cpuG [(2, 0x2000)] []).sys with
    seals := [(0x2000, { gcm := false, hash := shaInit, snap := List.replicate 80 0 })] } }
def sH : Sys := s4of i0 (.shfin i0 1 3 2) cpuH
theorem test_wit_SealSteps : Goes4 (.shfin i0 1 3 2) cpuH ∧ (sH.ctx 0).custody = true ∧ (sH.gr 0 2).toNat % 64 = 0 ∧ (sH.gr 0 1).toNat = 0 ∧
    ∃ sp s2 ar s3 dp s4 dr s5 s6, Ends (spanRw 0 0x2000 128) sH sp s2 ∧ Ends (sp.read 0) s2 ar s3 ∧
      Ends (spanXl 0 2 0 0) s3 dp s4 ∧ Ends (dp.read 0) s4 dr s5 ∧ Ends (sp.ready 0) s5 () s6 ∧
      (s3.sealRec ((sp.pieces.head?.map (fun p => p.1)).getD 0) false (ar.map octet)).any (fun r => !r.bad) = true := by
  have h : isOk ((do
    let sp ← spanRw 0 0x2000 128
    let ar ← sp.read 0
    let s ← (get : M Sys)
    let dp ← spanXl 0 2 0 0
    let _ ← dp.read 0
    sp.ready 0
    (if (s.sealRec ((sp.pieces.head?.map (fun p => p.1)).getD 0) false (ar.map octet)).any (fun r => !r.bad) = true
      then pure () else throw .stay : M Unit) : M Unit).run sH) = true := by decide +kernel
  obtain ⟨sp, s2, h1, h⟩ := ok_bind h
  obtain ⟨ar, s3, h2, h⟩ := ok_bind h
  obtain ⟨s, s3', h3, h⟩ := ok_bind h
  cases h3
  obtain ⟨dp, s4, h4, h⟩ := ok_bind h
  obtain ⟨dr, s5, h5, h⟩ := ok_bind h
  obtain ⟨_, s6, h6, h⟩ := ok_bind h
  refine ⟨issued4 (by decide +kernel) (by decide +kernel), by decide +kernel, by decide +kernel, by decide +kernel, sp, s2, ar, s3, dp, s4, dr, s5, s6, h1, h2, h4, h5, h6, ?_⟩
  by_cases c : (s3.sealRec ((sp.pieces.head?.map (fun p => p.1)).getD 0) false (ar.map octet)).any (fun r => !r.bad) = true
  · exact c
  · rw [if_neg c] at h
    cases h

/-- A header of a message from a module that the peer list does not name. -/
def hdr0 : PktHdr := { link := 0, src := 9, sepoch := 0, depoch := 0, part := 0, status := 0, tag := 0 }
/-- A core that awaits the answer of a remote slot. -/
def cpuX : State := { sys := cpuC.sys.setCore 0 { coreOf ctxC with remote := some { tag := 0, rd := 3, slot := 1 } } }
theorem test_wit_RemoteSlots : (Goes4 (.cpRemote i0 1 3 4 5 0) cpuC ∧ i0.irqAt = 0) ∧
    cpuX.sys.rxCheck hdr0 false = (cpuX.sys, true) ∧ (cpuX.sys.core 0).remote = some { tag := 0, rd := 3, slot := 1 } ∧
    (cpuX.sys.running 0).isSome = true ∧ cpuX.sys.fencedFor 0 = none :=
  ⟨⟨issued4 (by decide +kernel) (by decide +kernel), rfl⟩, by decide +kernel⟩

/-- Cluster 0 with one task in each state of R369. -/
def campW : Campion :=
  { tasks := [(0, { state := 2, resid := some (0, 0), noPart := true, w := true }), (1, { state := 3 }), (3, { state := 5 }),
              (5, { state := 1 }), (6, { state := 6 })] }
def cpuT : State := { sys := { cpuC.sys with camp := [(0, campW)] } }
theorem test_wit_CampionEvents :
    cpuT.sys.findTask 0 (taskId 0 1 0) = some 1 ∧ cpuT.sys.findTask 0 (taskId 0 3 0) = some 3 ∧
    cpuT.sys.findTask 0 (taskId 0 5 0) = some 5 ∧ cpuT.sys.findTask 0 (taskId 0 6 0) = some 6 ∧
    cpuT.sys.findTask 0 (taskId 0 0 0) = some 0 ∧ cpuT.sys.findTask 0 (taskId 0 2 0) = none ∧ cpuT.sys.runTask 0 = some 0 ∧
    (cpuT.sys.core 0).switchTo = none ∧ (cpuT.sys.campion 0).placing = [] := by decide +kernel

/-- The machine with memory for a creation block of Custody at physical address 0x2000. -/
def cpuK : State := { sys := { cpuT.sys with tabs := { img := { templates := [[extAll]] } } } }
theorem test_wit_CampionCommands : (cpuK.sys.running 0).isSome = true ∧ (cpuK.sys.issuer 0).sup = true ∧
    (cpuK.sys.issuer 0).world = true ∧ ((cpuK.sys.blockRead (cpuK.sys.issuer 0) 0x2000).blockWords (cpuK.sys.issuer 0) 0x2000).isSome = true ∧
    cpuK.sys.freeIndex 0 = some 2 ∧ cpuK.sys.findTask 0 (taskId 0 5 0) = some 5 ∧
    (8 : BitVec 8).toNat = 8 ∧ (7 : BitVec 8).toNat < 8 ∧ cpuK.sys.isCustody 0x400 = true := by decide +kernel

/-- A core whose entry at SSP 0x4000 has a SAVEU area, with a reserved long word at its PC, one with an interrupt, and a cluster whose task waits for a bank. -/
def cpuV : State := { sys := { sysOf { ctxC with saved := [(0x8000, 0x4000)] } with
  mem := [(0x1000, 0x1F6)] } }
def sU (i : Instr) : Sys := endOf ((do fetch i0 i false; loopCheck 0 4 : M Unit).run (cpuV.sys.closeShadow 0))
theorem goesU {i : Instr} (h : isOk ((do fetch i0 i false; loopCheck 0 4 : M Unit).run (cpuV.sys.closeShadow 0)) = true)
    (h1 : (cpuV.sys.closeShadow 0).canIssue 0 = true) : IssuedAs false i0 i 4 cpuV.sys (sU i) := ⟨rfl, h1, ends_of () h⟩
def cpuI : State := { sys := sysOf { ctxC with status := mkw 36 [(0, 1), (1, 1), (2, 1)], irqC := [(2, 0)] } }
def cpuB : State := { sys := { cores := [(0, { slot := some 0 })], camp := [(0, { tasks := [(1, { state := 1, noPart := true, init := some ctxC })], placing := [(1, 0)] })] } }
theorem test_wit_BanksAndEntries :
    (IssuedAs false i0 (.saveu i0) 4 cpuV.sys (sU (.saveu i0)) ∧ (sU (.saveu i0)).areaFor 0 = some 0x8000 ∧
      isOk ((loadFrame 0 0x4000).run (sU (.saveu i0))) = true) ∧
    (IssuedAs false i0 (.savel i0) 4 cpuV.sys (sU (.savel i0)) ∧
      ((sU (.savel i0)).ctx 0).saved.find? (fun v => v.2 = ((sU (.savel i0)).ctx 0).sspC) = some (0x8000, 0x4000) ∧
      isOk ((drain 0).run (sU (.savel i0))) = true) ∧
    ((cpuB.sys.campion 0).placing.find? (fun x => cpuB.sys.mayFill 0 x.1 x.2) = some (1, 0) ∧
      cpuB.sys.freeBank 0 = some 0 ∧ (cpuB.sys.task 0 1).init = some ctxC) ∧
    (i0.hw = .none ∧ cpuI.sys.running 0 = some (0, { ctxC with status := mkw 36 [(0, 1), (1, 1), (2, 1)], irqC := [(2, 0)] }) ∧
      (cpuI.sys.ctx 0).irqDue = some (true, 2, 0) ∧
      isOk ((enterM 0 { cls := 11, code := 2, asyn := true } true 0x1000).run cpuI.sys) = true) :=
  ⟨⟨goesU (by decide +kernel) (by decide +kernel), by decide +kernel⟩, ⟨goesU (by decide +kernel) (by decide +kernel), by decide +kernel⟩,
   by decide +kernel, by decide +kernel⟩

/-- A store of a word that waits in core 0, and the same as a retry. -/
def ent0 : StoreEnt := { pa := 0x2000, va := 0x2000, data := [1, 2, 3, 4], bank := 0, world := true, sup := true, leaf := none }
def cpuQ (e : StoreEnt) : State := { sys := cpuC.sys.setCore 0 { coreOf ctxC with sq := [e] } }
theorem test_wit_StoreCommitWrites : ((cpuQ ent0).sys.core 0).sq = ent0 :: [] ∧ ent0.retry = false ∧ ent0.pa < memSize ∧
    (cpuQ ent0).sys.voided ent0 = false ∧ (cpuQ ent0).sys.spanLocked ent0.pa ent0.data.length = false ∧
    (cpuQ ent0).sys.blockedLine 0 true ent0.pa ent0.data.length = none ∧ (cpuQ ent0).sys.flips = [] ∧ ent0.data.length ≤ 64 ∧
    ((cpuQ ent0).sys.core 0).entry = none ∧
    Memory.wf (cpuQ ent0).sys.mem = true ∧ (cpuQ ent0).sys.parts = [] ∧ (cpuQ ent0).sys.bus = [] ∧ (cpuQ ent0).sys.inTable ent0.pa = false ∧
    ((cpuQ ent0).sys.core 0).waitc = none ∧ ((cpuQ { ent0 with retry := true }).sys.core 0).sq = { ent0 with retry := true } :: [] := by
  decide +kernel

/-- Memory controllers that are up, a line with an owner, and one whose owner has a request of cluster 2 to answer. -/
def cpuM : State := { sys := { cpuC.sys with
  mcs := (List.range 8).map (fun m => (m, { up := true })),
  dirs := [(1, { owner := some (.cluster 1) }), (2, { owner := some (.cluster 1), pend := some (.cluster 2, true) })] } }
theorem test_wit_DirectoryCommands :
    memSize ≤ 64 * 0x100000000 ∧ memSize < 0x3FFFFFFFFF + 2 ∧
    (64 * 3 < memSize ∧ cpuM.sys.lineUp 3 = true ∧ cpuM.sys.lineLocked (64 * 3) = false ∧ (cpuM.sys.mc (stackOf 192)).fail = false ∧
      cpuM.sys.poison = [] ∧ cpuM.sys.flips = [] ∧ cpuM.sys.tracker = [] ∧ cpuM.sys.dirs.length < 16 ∧ cpuM.sys.inL3 2 3 = false ∧
      (cpuM.sys.dir 3).pend = none ∧ (cpuM.sys.dir 3).owner = none ∧ (cpuM.sys.dir 1).owner = some (.cluster 1)) ∧
    ((cpuM.sys.dir 1).pend = none ∧ (cpuM.sys.dir 2).pend = some (.cluster 2, true) ∧
      (cpuM.sys.dir 2).inFlight = false) ∧
    (192 + 31 ≤ memSize ∧ (192 + 31 - 1) / 32 = 192 / 32 ∧ cpuM.sys.parts = [] ∧ cpuM.sys.bus = []) := by decide +kernel
/-- A core with an invalidation, one that awaits an acknowledgement, and slots in each state. -/
def cpuN : State := { sys := { cpuC.sys with
  cores := [(0, { coreOf { ctxC with ivOut := [1] } with waitc := some .ivsync, acks := [{ core := 1, slot := some 0, task := 0 }] }),
            (1, { slot := some 1, invq := [{ scope := .all, src := 0, slot := some 0, task := 0 }] })],
  tansy := { slots := [(0, { st := .active 0 }), (1, { st := .active 1, beat := true }), (2, { st := .testing })] } } }
theorem test_wit_InvalidationsAndSlotHealth :
    ((cpuN.sys.core 1).invq = { scope := .all, src := 0, slot := some 0, task := 0 } :: [] ∧ (cpuN.sys.core 1).sq = [] ∧ (cpuN.sys.core 1).waitc = none) ∧
    ((cpuN.sys.core 0).acks.find? (fun x => x.core = 1) = some { core := 1, slot := some 0, task := 0 } ∧ (tfind (cpuN.sys.core 0).banks 0).isSome = true ∧
      (cpuN.sys.core 0).waitc = some .ivsync) ∧
    ((cpuN.sys.slot 0).st = .active 0 ∧ (cpuN.sys.slot 0).beat = false ∧ (cpuN.sys.slot 1).beat = true ∧ (cpuN.sys.slot 2).st = .testing ∧
      (coresOf 0).find? (fun k => (cpuN.sys.core k).slot.isNone) = some 2) := by decide +kernel

/-! ### Postings -/

/-- Partition 1: active, with quotas, rings of 64 entries at 0x10000 and 0x18000, and every stripe of memory. -/
def ent1 : List Word :=
  [mkw 36 [(0, 1), (15, 1), (35, 1)], mkw 36 [(16, 64), (23, 8), (35, 0xFFF)], mkw 36 [(6, 64), (16, 512), (30, 9216)],
   mkw 36 [(27, 8)], mkw 36 [(11, 0), (24, 64)], 0, 0, 0x8000, mkw 36 [(4, 6)], 0x10000, mkw 36 [(4, 6)], 0x18000,
   mkw 36 [(4, 6)], 0x20000, 0, 0, mkw 36 [(0, 1), (35, 4095)]]
def part1 : Part := { st := 2, ent := ent1 }
/-- A descriptor of two legs on accounts at 0x4000 and 0x4040, of format 0. -/
def desc2 : Desc :=
  { hdr := [mkw 36 [(4, 2), (29, 1)], 0, 0, 7, 0, 0, 0, 0],
    legs := [(mkd (mkw 36 [(30, 1)]) 0x4000, List.replicate 15 0 ++ [0x1C]), (mkd (mkw 36 [(30, 1)]) 0x4040, List.replicate 15 0 ++ [0x1D])] }
def posting0 : Posting :=
  { slot := 0, op := 1, sub := some 1, part := 1, ring := some 1, pid := 7, dur := false, fmt := 0, tmo := 100, curs := [0],
    legs := desc2.legList, age := { stamp := 0, ident := 0, quad := 0, slot := 0 }, task := (0, 0), phase := .prepared }
def busOf (l : Tbl Posting) (r : List JRec) : Tbl Bu := [(0, { posts := l, recs := r })]
/-- A machine of partition 1 with a posting in slot 0 of the Balance Unit of quadrant 0. -/
def cpuBU (l : Tbl Posting) (r : List JRec) : State :=
  { sys := { (sysOf { ctxO with g := [(2, 0), (3, 7)] }) with
    parts := [(1, part1)], bus := busOf l r, tabs := { formats := [(0, 0)] }, j0up := true,
    alloc := { leases := [(64, 127)] } } }
def sBU (i : Instr) (l : Tbl Posting) : Sys := s4of i0 i (cpuBU l [])
def iPO : Instr := .post i0 1
def iCO : Instr := .commit i0 2
def iLK : Instr := .slacq i0 4 0

theorem test_wit_PostingSubmission :
    (Goes4 iPO (cpuBU [] []) ∧ isOk ((readDesc 0 0).run (sBU iPO [])) = true) ∧
    ((sBU iPO []).freeSlot 0 = some 0 ∧ (sBU iPO []).roomFor 0 2 true (some 1) = true ∧ (sBU iPO []).ringRoom (some 1) 2 = true ∧
      desc2.hdrBad = false ∧ (sBU iPO []).partOk false 1 desc2.part = true ∧ desc2.nleg = 2 ∧
      desc2.legList.find? (fun l => legBad l desc2.ncur || !(sBU iPO []).groupOk desc2.part l.lpart) = none ∧
      (tfind (sBU iPO []).tabs.formats desc2.fmt).isSome = true) ∧
    ((cpuBU [(0, posting0)] []).sys.posting 0 0 = some posting0 ∧ posting0.coord = none ∧ posting0.ring = some 1 ∧
      posting0.quiet = false ∧ posting0.told = []) :=
  ⟨⟨issued4 (by decide +kernel) (by decide +kernel), by decide +kernel⟩, by decide +kernel, by decide +kernel⟩

theorem test_wit_PostingAndLockInstructions :
    (Goes4 iCO (cpuBU [(0, posting0)] []) ∧ (sBU iCO [(0, posting0)]).ringRoom (some 1) 1 = true ∧
      (sBU iCO [(0, posting0)]).findPrep 0 (some 1) ((sBU iCO [(0, posting0)]).gp 0 2) = some (0, posting0)) ∧
    (Goes4 iCO (cpuBU [] []) ∧ (sBU iCO []).ringRoom (some 1) 1 = true ∧ (sBU iCO []).findPrep 0 (some 1) 7 = none) ∧
    (Goes4 iLK (cpuBU [] []) ∧ (sBU iLK []).findPrep 0 (some 1) 7 = none ∧
      (sBU iLK []).inWindow ((sBU iLK []).ctx 0) 63 = true ∧ (sBU iLK []).inWindow ((sBU iLK []).ctx 0) 64 = false ∧ (sBU iLK []).port.role = 3 ∧
      (sBU iLK []).lockReqs 7 = []) :=
  ⟨⟨issued4 (by decide +kernel) (by decide +kernel), by decide +kernel⟩, ⟨issued4 (by decide +kernel) (by decide +kernel), by decide +kernel⟩,
   issued4 (by decide +kernel) (by decide +kernel), by decide +kernel⟩

def postC : Posting := { posting0 with phase := .seqWait, locks := [0x100], image := [(0x4000, 1)] }
theorem test_wit_CommitPointEffects :
    ((cpuBU [] []).sys.posting 0 0 = none) ∧
    ((cpuBU [(0, postC)] []).sys.posting 0 0 = some postC ∧ postC.phase = .seqWait ∧ postC.wounded = false ∧ postC.coord = none ∧
      (cpuBU [(0, postC)] []).sys.takeNumber.isSome = true ∧ cpuC.sys.takeNumber = none) ∧
    ((∀ y ∈ postC.image, y.1 ≠ 0x9000) ∧ (∀ ln ∈ postC.locks, cpuC.sys.keyAddr (ln * 64) ≠ 0x9000) ∧ fHL 0 = false ∧ cpuC.sys.flips = []) := by
  decide +kernel

def postL : Posting := { posting0 with phase := .lockWait, want := [0x100] }
def postW : Posting := { posting0 with phase := .partReady, coord := some (9, 1, 0, 5), wounded := true }
theorem test_wit_WaitingPostings :
    ((cpuBU [(0, postL)] []).sys.holder 0x100 = none ∧ (cpuBU [(0, postL)] []).sys.waiters 0 0x100 = [(0, postL)]) ∧
    ((cpuBU [(0, postW)] []).sys.posting 0 0 = some postW ∧ postW.wounded = true ∧ postW.phase.past = false ∧
      postW.coord = some (9, 1, 0, 5)) ∧ (posting0.coord = none ∧ posting0.phase.past = false ∧ posting0.op ≠ 0) := by decide +kernel

def jr0 : JRec := { pos := 0, part := 1, seqn := 64, kind := 0, slot := none }
theorem test_wit_JournalEffects :
    (cpuBU [] [jr0]).sys.j0up = true ∧ ((cpuBU [] [jr0]).sys.bu 0).stuck = false ∧
    ((cpuBU [] [jr0]).sys.bu 0).recs = [jr0] ∧
    (∀ r ∈ [jr0], r.wrote = false → (cpuBU [] [jr0]).sys.poisonedSpan ((cpuBU [] [jr0]).sys.recAddr 0 r.pos) 128 = false) ∧
    (cpuBU [] []).sys.j1up = false := by decide +kernel

/-- A companion peer, module 9, whose messages pass every check. -/
def sysPeer : Sys := { (cpuBU [] []).sys with
  tabs := { img := { peers := [{ ident := 9, companion := true, slot := none }] }, formats := [(0, 0)] } }
def hdrNo : PktHdr := { hdr0 with src := 8 }
def prep0 : PrepMsg :=
  { cpart := 1, fmt := 0, tmo := 100, pid := 7, age := { stamp := 0, ident := 9, quad := 0, slot := 0 }, curs := [0],
    legs := [{ idx := 0, rmt := true, cix := 0, ident := 0, lpart := 1, resv := false, addr := 0x4000, amt := List.replicate 15 0 ++ [0x1C] }] }
def postK : Posting := { posting0 with phase := .ackWait, others := [(9, true, false)] }
theorem test_wit_PostingMessages :
    (sysPeer.rxCheck hdr0 true = (sysPeer, true) ∧ sysPeer.rxCheck hdr0 false = (sysPeer, true) ∧
      (sysPeer.rxCheck hdrNo true).2 = false ∧ sysPeer.freeSlot 0 = some 0 ∧
      sysPeer.roomFor (quadOfLink 0) prep0.legs.length true (some 1) = true ∧
      prep0.legs.find? (fun l => (sysPeer.part l.lpart).st = 0 || !sysPeer.groupOk prep0.cpart l.lpart) = none) ∧
    (({ sysPeer with bus := busOf [(0, postK)] [] } : Sys).coordOf { hdr0 with tag := 0xC000 } 7).isSome = true := by decide +kernel
/-! ### DMA -/

/-- Channel 0 of quadrant 0, which partition 1 owns: enabled and idle, active with a list, or disabled. -/
def dl0 : DList := { cfg := 0, task := 0, tag := 0, nextE := 0x40 }
def sysDma (c : DChan) (h : Bool) : Sys := { (cpuBU [] []).sys with
  dmas := [(0, { chans := [(0, c)], halt := h, drain := h })], tabs := { img := { owners := [(0, 1)] } } }
def chIdle : DChan := { dis := false }
def lDone : DList := { dl0 with ended := true }
theorem test_wit_DmaChannels :
    (((sysDma chIdle false).chan 0 0).dis = false ∧ dmaOwner (sysDma chIdle false) 0 0 = some 1 ∧ ((sysDma chIdle false).dma 0).halt = false ∧
      ((sysDma chIdle false).chan 0 0).lists = [] ∧ (sysDma chIdle false).ringFree part1.dcr 0 = true) ∧
    ((sysDma chIdle true).dma 0).halt = true ∧ ((sysDma {} false).chan 0 0).dis = true ∧ ((sysDma chIdle false).dma 1).chans = [] ∧
    ((sysDma { chIdle with lists := [lDone] } false).chanState 0 0 = 2 ∧ listDone lDone = true ∧ lDone.hostLast = none ∧
      listDone dl0 = false) ∧
    cfgMode { (0 : Word) with } = 0 ∧ ((sysDma { chIdle with lists := [lDone] } false).ringIx part1.dcr.2).isSome = true := by decide +kernel

/-- A list whose source and destination are 8 syllables in memory, and one from memory to the host. -/
def lCopy (toHost : Bool) : DList :=
  { lDone with cfg := if toHost then BitVec.ofNat 36 0x100000000 else 0, srcs := [{ side := false, base := 0x2000, len := 8 }],
               dsts := [{ side := toHost, base := 0x3000, len := 8 }] }
/-- The same with an extent table whose first extent is the bottom of memory. -/
def sysDx (l : DList) : Sys := { sysDma { chIdle with lists := [l] } false with
  mem := msets [] 0x8000 (sylsD (mkd (mkw 36 [(0, 1), (2, 1), (3, 1), (23, 65535)]) 0)) }
theorem test_wit_DmaLists :
    ((sysDma chIdle false).chanState 0 0 ≠ 2) ∧
    ((sysDma { chIdle with lists := [dl0] } false).chanState 0 0 = 2 ∧ dl0.ended = false ∧ dl0.nread < 65535 ∧
      (sysDma { chIdle with lists := [dl0] } false).entryWaits 1 dl0.nextE = false ∧
      ((sysDma { chIdle with lists := [dl0] } false).dxtRead 2 1 dl0.nextE).dxtXlate 1 dl0.nextE 8 false = .fail) ∧
    ((sysDx dl0).entryWaits 1 dl0.nextE = false ∧ ((sysDx dl0).dxtRead 2 1 dl0.nextE).dxtXlate 1 dl0.nextE 8 false = .ok false 0x40 ∧
      (((sysDx dl0).dxtRead 2 1 dl0.nextE).readBy 2 0x40 8).poisoned 0x40 = false) ∧
    (planStep (lCopy false) = some { n := 8, ma := 0x3000, src := [(0x2000, 8)], dst := [(0x3000, 8)] } ∧
      planStep (lCopy true) = some { n := 8, ma := 0x2000, src := [(0x2000, 8)], dst := [(0x3000, 8)] } ∧
      planStep lDone = none ∧ (sysDma { chIdle with lists := [lCopy false] } false).dmaGrant 0 = some 0 ∧
      (sysDma { chIdle with lists := [lCopy true] } false).dmaGrant 0 = some 0 ∧
      (sysDma { chIdle with lists := [lCopy false] } false).poisonedIn [(0x2000, 8)] = none) ∧
    ((sysDma { chIdle with lists := [lCopy false] } false).chanState 0 0 = 2 ∧
      segAt (lCopy false).srcs 0 = some ({ side := false, base := 0x2000, len := 8 }, 0x2000, 8) ∧
      segAt (lCopy false).dsts 0 = some ({ side := false, base := 0x3000, len := 8 }, 0x3000, 8) ∧ listAvail (lCopy false) ≠ 0 ∧
      cfgMode (lCopy false).cfg = 0 ∧
      (List.range 8).all (fun i => !inSegs (lCopy false).srcs (0x3000 + i)) = true) ∧
    (cfgMode (lCopy true).cfg = 1 ∧ cfgSwap (lCopy true).cfg = 0) := by decide +kernel

/-! ### The host -/

def sysPf (p : Pf) : Sys := { (cpuBU [] []).sys with pf := p }
theorem test_wit_HostCommands :
    ((sysPf { busy := true }).pf.busy = true ∧ (sysPf {}).pf.busy = false ∧ (sysPf {}).pf.ready = false) ∧
    ((sysPf { ready := true, acc := 1 }).pf.fcomm = false ∧ (sysPf { ready := true }).vfs.any (fun v => v.2.anyOn) = false ∧
      featCheck 1 0x7F0F = none ∧ featCheck 0x80 0x7F0F = some (1, 7) ∧ featCheck 0 0x7F0F = some (2, 0)) ∧
    ((sysPf { ready := true, fcomm := true, set := 9 }).pf.set.testBit 3 = true ∧ (sysPf { set := 4 }).pf.set.testBit 2 = true ∧
      (sysPf { set := 4 }).pf.set.testBit 3 = false) ∧
    ((sysPf { busy := true, run := some 0 }).pf.run = some 0) := by decide +kernel
def sysLife (st : Nat) (h : Option Bool) : Sys :=
  { (cpuBU [] []).sys with cores := [], parts := [(1, { part1 with st := st, holding := h })],
                           pf := { ready := true, fcomm := true, set := 8 } }
theorem test_wit_PartitionLifecycle :
    ((sysLife 0 none).part 1).st = 0 ∧ ((sysLife 5 none).part 1).st = 5 ∧ ((sysLife 1 none).part 1).st = 1 ∧
    (((sysLife 2 none).part 1).st = 2 ∧ (sysLife 2 none).runningOf 1 = []) ∧
    (((sysLife 3 (some false)).part 1).st = 3 ∧ ((sysLife 3 (some false)).part 1).holding = some false ∧
      (sysLife 3 (some false)).runningOf 1 = []) ∧ ((cpuBU [] []).sys.runningOf 1).length ≤ 1 ∧
    (((sysLife 4 none).part 1).st = 4 ∧ ((sysLife 2 none).part 1).after = [] ∧ ((sysLife 2 none).cancelTasks 1).hasTasks 1 = false ∧
      (let s : Sys := (sysLife 4 none).setTask 0 3 { state := 1, part := 1, cancel := true }
       (s.cancelTasks 1).hasTasks 1 = false) ∧
      (let s : Sys := (sysLife 4 none).setTask 0 3 { state := 2, part := 1, resid := some (0, 0) }
       (s.cancelTasks 1).hasTasks 1 = true ∧ ((s.cancelTasks 1).part 1).holding = none)) ∧
    ((sysLife 1 none).pf.busy = false ∧ (sysLife 1 none).pf.set.testBit 3 = true) := by decide +kernel

/-- Queue pair 0 of partition 1's VF: its commit level, its two states. -/
def qpOn : Qp := { qcfg := BitVec.ofNat 36 (2 ^ 35 + 4), st := 2, sqtail := 1, subs := [{ cid := 5, addr := 0, max := 8 }],
                   side := some (0, 0, 0x30000, 6) }
def sysQp (x : Qp) : Sys := { sysPf { ready := true, fcomm := true } with vfs := [(1, { set := 0x101, qps := [(0, x)] })] }
theorem test_wit_QueuePairs :
    ((sysPf {}).pf.ready = false ∧ (sysQp {}).qpOffered 1 7 = true ∧ (sysQp {}).qpOffered 2 0 = false) ∧
    (((sysQp {}).qp 1 0).en = false ∧ qcfgOk ((sysQp {}).vf 1).set 0 (4096 + 2 ^ 35) = true ∧
      qcfgOk ((sysQp {}).vf 1).set 0 (4097 + 2 ^ 35) = false ∧ 4096 < 2 ^ 35) ∧
    (((sysQp qpOn).qp 1 0).en = true ∧ qpOn.size = 4 ∧ qpOn.st = 2 ∧ qpOn.sqhd ≠ qpOn.sqtail.toNat ∧ qpOn.cqFull = false ∧
      ({ qpOn with cqtl := 3 } : Qp).cqFull = true ∧ qpOn.subs.find? (fun u => u.cid = 5) = some { cid := 5, addr := 0, max := 8 } ∧
      (sysQp qpOn).ringFree (6, 0x30000) 0 = true ∧ ((sysQp qpOn).part 1).st = 2 ∧ 0 < qpOn.size) ∧
    (((sysLife 2 none).part 1).st = 2 ∧ ((sysLife 3 none).part 1).st = 3 ∧ ((sysLife 1 none).part 1).st = 1) := by decide +kernel

def stRw (p : Pf) : State := { sys := sysPf p }
theorem test_wit_RecoveryWindow :
    (stRw { rwbusy := true }).sys.pf.rwbusy = true ∧ (stRw {}).sys.pf.rwopen = false ∧
    ((stRw { rwopen := true, rwaddr := 0x7FFF000 }).sys.pf.rwaddr + 4096 ≤ 0x8000000 ∧
      0x8000000 < (stRw { rwopen := true, rwaddr := 0x7FFF001 }).sys.pf.rwaddr + 4096 ∧ 0x7FF0000 % 0x10000 = 0) ∧
    Flash.wf (stRw {}).flash = true ∧ (stRw { rwopen := true, ready := true, rwaddr := 0x4000000 }).boot.chosen = false := by decide +kernel
theorem test_wit_RegistersAndResets :
    inBar 0 0xFFFFF = true ∧ inBar 0 0x100000 = false ∧ inBar 1024 0xFFFF = true ∧ inBar 1025 0 = false ∧ aligned 4 8 = false ∧
    aligned 0x11FF8 8 = true ∧ octStore 0 0x11FF8 = some (.staging, 0xFF8) ∧ octStore 0 0x80 = none ∧
    (stRw {}).pfSlot 0x78 false = none ∧ (sysPf { ready := true }).pf.ready = true := by decide +kernel

/-! ### The shelf bus and the fabric -/

/-- A module in a role, with its slot live or not, commands in its port's queue, and the tables of a master. -/
def stScb (role : Nat) (live : Bool) (out : List BusMsg) (m : Master) : State :=
  { sys := { (cpuBU [] []).sys with port := { role := role, slots := [(0, { live := live }), (1, { live := true })], out := out,
                                              locks := [(7, [{ part := none, task := (0, 0), st := .sent }])] } }, master := m }
def lk7 : MLock := { holder := some (0, none), wait := [(1, some 2)] }
theorem test_wit_ShelfLockCommands :
    (((stScb 1 true [.lkacq 7 none] {}).sys.port.out = [.lkacq 7 none] ∧ (stScb 1 true [.lkacq 7 none] {}).sys.port.role ≠ 3 ∧
      ((stScb 1 true [] {}).sys.epSlot 0).live = true ∧ ((stScb 1 false [] {}).sys.epSlot 0).live = false) ∧
      (1 : Slot64).val ≠ (stScb 1 true [] {}).sys.img.mySlot.val) ∧
    (tget {} ({ locks := [(7, lk7)] } : Master).locks 7 = lk7 ∧ lk7.holder = some (0, none) ∧ lk7.wait = (1, some 2) :: []) ∧
    ((stScb 1 true [] { out := [.grant 0 7 64 false] }).master.out = .grant 0 7 64 false :: [] ∧
      (stScb 2 true [] {}).sys.port.role = 2 ∧ (stScb 0 true [] {}).sys.port.role = 0 ∧
      (stScb 0 true [] {}).sys.img.mySlot.val = (0 : Slot64).val ∧ ((stScb 0 true [] {}).sys.epSlot 0).live = true) ∧
    ((stScb 1 true [] { locks := [(7, lk7)] }).masterAnswer 1 (.lkacq 7 (some 2)) = .refused ∧
      (stScb 1 true [] { locks := [(7, lk7)] }).masterAnswer 0 (.lkrel 7 5) = .ack ∧
      (stScb 1 true [] {}).masterAnswer 1 (.lease 11) = .refused ∧ (stScb 1 true [] {}).masterAnswer 2 (.lease 1) = .stale) ∧
    ((((stScb 0 true [] {}).sys.raiseFloor 64).lockReqs 7 = { part := none, task := (0, 0), st := .sent } :: [] ∧
      ((stScb 0 true [] {}).sys.raiseFloor 64).port.out = []) ∧ (stScb 0 true [] {}).sys.alloc.floor < 64) := by decide +kernel
theorem test_wit_ShelfLivenessCommands :
    ((stScb 1 true [] { out := [.epoch 1 false 0 1] }).master.out = .epoch 1 false 0 (1 : BitVec 16).toNat :: [] ∧
      (stScb 2 true [] {}).sys.port.role ≠ 1) ∧
    ((1 : Slot64).val ≠ (stScb 1 true [] {}).sys.img.mySlot.val ∧ ((stScb 1 true [] {}).sys.epSlot 1).live = true ∧
      ((stScb 1 true [] {}).sys.epSlot 2).live = false ∧ (stScb 1 true [] {}).master.out = []) ∧
    ((stScb 3 false [.join] {}).sys.port.out = .join :: [] ∧ (stScb 3 false [.join] {}).sys.port.role = 3 ∧
      (stScb 3 false [.join] {}).sys.port.takeovers = 0 ∧ ((stScb 3 false [.join] {}).sys.epSlot 0).live = false) ∧
    ((stScb 0 true [.notice 0 1] {}).sys.port.out = .notice 0 1 :: [] ∧ (stScb 2 true [] {}).sys.port.role = 2 ∧
      (stScb 2 true [] {}).sys.ownLive = true ∧ (stScb 2 false [] {}).sys.ownLive = false) ∧
    (let s := (stScb 1 true [.notice 3 0] {}).modPort (fun p => { p with mute := true })
     s.sys.port.role = 1 ∧ s.sys.port.mute = true ∧ s.sys.port.out.head? = some (.notice 3 (BitVec.ofNat 36 s.sys.img.mySlot.val)) ∧
       s.master.out = []) := by decide +kernel

def pkt0 (d : BitVec 18) : Packet :=
  { link := 0, vc := 0, typ := 1, dest := d, src := 9, sepoch := 0, depoch := 0, part := 0, status := 0, tag := 0, seg := 0,
    last := true, poison := false, body := [] }
def frame0 : Frame := { fseq := 0, packet := List.replicate 16 0, credVc := 3, credit := 1, crc := crc32c (List.replicate 16 0), fecBad := false }
/-- Link 0 UP with a kept frame, and a route to member 1 over it. -/
def sysFab (st : Nat) : Sys := { sysPeer with
  tabs := { img := { links := 1, members := [(1, { v := true, prim := 0, av := false, alt := 0 })],
                     peers := [{ ident := 9, companion := true, slot := none }, { ident := 1, companion := false, slot := none }] } },
  fab := { links := [(0, { st := st, sent := [frame0] })] }, port := { slots := [(0, { live := true })] } }
theorem test_wit_FabricLinks :
    (((sysFab 2).link 0).st = 2 ∧ frame0.fseq = ((sysFab 2).link 0).rxSeq ∧ frame0.fecBad = false ∧ crc32c frame0.packet = frame0.crc ∧
      (packetOf 0 frame0.packet).vc = 0 ∧ (packetOf 0 frame0.packet).dest.toNat = (sysFab 2).modid ∧ typeOk 0 0 = false ∧ typeOk 0 5 = true) ∧
    (((sysFab 2).link 0).sent.any (fun g => g.fseq = 0) = true ∧ (sysFab 0).img.links.getLsbD 0 = true ∧ ((sysFab 0).link 0).st = 0 ∧
      ((sysFab 3).link 0).st = 3) ∧
    ((pkt0 1).dest.toNat ≠ (sysFab 2).modid ∧ ((sysFab 2).emit (pkt0 1)).2 = true ∧ ((sysFab 2).emit (pkt0 2)).2 = false ∧
      ((sysFab 0).emit (pkt0 1)).2 = false ∧ ((sysFab 2).emit { pkt0 2 with vc := 2 }).2 = true ∧
      (({ sysFab 2 with fab := { (sysFab 2).fab with paths := [(9, 0, 5)] } } : Sys).pathOf { pkt0 1 with seg := 1 }) = some 5 ∧
      (sysFab 2).pathOf (pkt0 1) = none ∧ ((sysFab 2).routeOf 1).map (fun r => r.v) = some true) ∧
    ((sysFab 2).rxCheck hdr0 false = (sysFab 2, true) ∧ (sysFab 2).peerOf 5 = none) ∧
    ((sysFab 2).peerOf 1 = some { ident := 1, companion := false, slot := none } ∧ (sysFab 2).epochOf 1 = (false, 0) ∧
      newer 1 0 = true ∧ newer 0x8000 0 = false ∧ newer 0x7FFF 0 = true ∧ newer 0 0 = false ∧ (sysFab 2).ownLive = true) := by decide +kernel

/-- The standby and the active side of partition 1's pair with module 9. -/
def sysPair (standby : Bool) (x : PairSt) : Sys := { sysPeer with
  tabs := { img := { peers := [{ ident := 9, companion := true, slot := none }],
                     pairs := [{ part := 1, standby := standby, peer := 9, regions := [(0x4000, 128)], bufA := 0x10000, bufB := 0x20000 }] } },
  fab := { pairs := [(1, x)] } }
def hdrP : PktHdr := { hdr0 with part := 1 }
theorem test_wit_PairedPartitions :
    ((sysPair true {}).rxCheck hdrP true = (sysPair true {}, true) ∧ (sysPair true {}).rxCheck hdrP false = (sysPair true {}, true) ∧
      ((sysPair true {}).standbyOf hdrP).isSome = true ∧ (sysPair false {}).standbyOf hdrP = none) ∧
    ((sysPair true { sseq := 4 }).pairSt 1).sseq < 5 ∧
    (((sysPair false {}).streaming 1).isSome = true ∧ ((sysPair false {}).pairSt 1).pend = none ∧ (sysPair true {}).streaming 1 = none) ∧
    ((sysPair true { lost := true }).pairOf 1).isSome = true ∧ ((sysPair true { lost := true }).pairSt 1).lost = true := by decide +kernel

/-! ### Start-up, background, power -/

def stBoot (l : List Nat) : State := { pwr := { pwrgood := true }, boot := { steps := l, cv := true } }
theorem test_wit_ModuleResets :
    State.reset.sys.pf.rwrange = none ∧ State.reset.pwr.pwrgood = false ∧ (stBoot [1]).pwr.pwrgood = true ∧
    ({ stBoot [] with pwr := { rstLow := true } } : State).pwr.rstLow = true ∧ (stBoot [1]).boot.steps ≠ [] ∧
    ((stRw { rwrange := some (0x10000, 0x10000) }).sys.pf.rwrange = some (0x10000, 0x10000) ∧ Flash.wf (stRw {}).flash = true) := by
  decide +kernel
theorem test_wit_StartUpSteps :
    ((stBoot [1]).pwr.pwrgood = true ∧ (stBoot [1]).boot.halted = false ∧ 2 ∉ (stBoot [1]).boot.steps ∧
      (∀ k ∈ [1], k ∈ (stBoot [1]).boot.steps) ∧ ¬ (∀ k ∈ [6, 7], k ∈ (stBoot [1]).boot.steps) ∧
      (∀ k ∈ [3, 5], k ∈ (stBoot [1, 2, 3, 5]).boot.steps) ∧ (stBoot [1, 2, 3, 5]).boot.cv = true ∧ (stBoot [1, 2, 3, 5]).patch = none) ∧
    ((stBoot [1]).pwr.perst = false) ∧ ((stBoot [1]).header false).check ≠ 0 ∧
    ((stBoot [1]).boot.ares = 0 ∧ (stBoot [1]).boot.bres = 0 ∧ (stBoot [1]).boot.gena = (stBoot [1]).boot.genb) := by decide +kernel
def stY (x : Mc) (img : ImageTables) (p : Pwr) : State :=
  { sys := { mcs := [(0, x), (1, { up := true })], tabs := { img := img } }, pwr := p, boot := { steps := [1] } }
theorem test_wit_BackgroundAndPower :
    (((stY { up := true, inLap := true } {} {}).sys.mc 0).up = true ∧ ((stY { up := true, inLap := true } {} {}).sys.mc 0).fail = false ∧
      ((stY { up := true, inLap := true } {} {}).sys.mc 0).inLap = true ∧ ((stY { up := true, inLap := true } {} {}).sys.mc 1).atEnd = false ∧
      5 ∈ ((stY { up := true, failed := [5] } {} {}).sys.mc 0).failed) ∧
    ((stY {} { ageSteps := [100] } {}).sys.img.ageSteps[0]? = some 100 ∧ tget 0 (stY {} {} { steps := [(2, 7)] }).pwr.steps 2 = 7) ∧
    ((950 : BitVec 12).toNat = 950 ∧ (951 : BitVec 12).toNat = 951 ∧ (stY {} {} { down := 1, pkgw := 921 }).pwr.pkgw.toNat < 922 ∧
      1000 < (stY {} {} {}).pwr.clock (stY {} {} {}).sys.img.curve 0 ∧ tget 0 (stY {} {} { cooling := [(1, 1)] }).pwr.cooling 1 ≠ 0 ∧
      ¬ 1000 < (stY {} {} { cooling := [(0, 36)] }).pwr.clock 4600 0) ∧
    ((stY {} {} {}).boot.steps ≠ [] ∧ (stY {} {} {}).pwr.clocksStopped = false ∧ (stY {} {} {}).pwr.i3cAddr = none ∧ 1 ∈ (stY {} {} {}).boot.steps ∧
      i3cReach 0xF000 true = false ∧ i3cReach 0xF000 false = true ∧ i3cReach 0x80000 true = true ∧ i3cReach 0xBFFF8 true = true ∧
      i3cReach 0xC0000 true = false) := by decide +kernel

/-! ### The whole machine -/

theorem test_wit_InstructionFrames :
    Ends (xlate 0 0 ctxC ctxC.status 2 0x2000 false) sA (valOf { pa := 0 } ((xlate 0 0 ctxC ctxC.status 2 0x2000 false).run sA))
      (endOf ((xlate 0 0 ctxC ctxC.status 2 0x2000 false).run sA)) ∧ sA.flips = [] ∧ Goes4 (.addi i0 3 4 7) cpuC ∧
    (cpuC.sys.closeShadow 0).markOption 0 ((cpuC.sys.closeShadow 0).ctx 0) ((cpuC.sys.closeShadow 0).ctx 0).status = false ∧
    cpuC.sys.running 0 = some (0, ctxC) ∧ stLA ctxC.status = false := 
  ⟨ends_of _ (by decide +kernel), rfl, issued4 (by decide +kernel) (by decide +kernel), by decide +kernel⟩
theorem test_wit_EveryCommandRuns : exec (.forward 0x100000000 false) State.reset = .fault (.noSuchAddress (64 * 0x100000000)) ∧
    exec .clockRaise State.reset = .next State.reset := ⟨rfl, rfl⟩
theorem test_wit_StepKeepsInvariant : State.reset.Inv ∧ step State.reset = .next State.reset :=
  ⟨⟨rfl, rfl, fun _ => ⟨Nat.le_refl _, (by decide : (0 : Nat) ≤ 7)⟩⟩, rfl⟩
theorem test_wit_FusesOnlyBlow : step State.reset = .next State.reset := rfl

/-! ### Further clauses of statements with several -/

/-- A load that the queue's store covers, one that it covers in part, and none. -/
def sN : Sys := (cpuQ ent0).sys
theorem test_clause_DataAccesses : (sN.core 0).sq = [] ++ ent0 :: [] ∧ ent0.holds 0x2000 4 = true ∧ ent0.holds 0x2003 1 = true ∧
    ent0.holds 0x2002 4 = false ∧ ent0.overlaps 0x2004 4 = false ∧ isOk ((loadN 0 4 0x2000).run sN) = true := by decide +kernel

theorem test_clause_CallReturnLoop : Goes4 (.jr i0 5) (cpuG [(5, 3)] []) ∧ (s4of i0 (.jr i0 5) (cpuG [(5, 3)] [])).gr 0 5 = 3 :=
  ⟨issued4 (by decide +kernel) (by decide +kernel), by decide +kernel⟩

/-- A core whose divider is in restoring mode after two failed checks, and loads of MAC2 that one register prevents. -/
def sysV (n : Nat) : Sys := { (sysOf ctxC).setCore 0 { coreOf ctxC with divm := true } with
  tansy := { slots := [(0, { st := .active 0, divFails := n })] } }
theorem test_clause_MultiplyAccumulate :
    (((sysV 2).core 0).slot = some 0 ∧ ((sysV 2).core 0).divm = true ∧ ((sysV 2).slot 0).divFails < 3 ∧ ¬ ((sysV 3).slot 0).divFails < 3) ∧
    isOk ((macPlace 0 8).run sA) = true ∧ excOf ((macPlace 0 2).run sA) = some { cls := 1, code := 4, acc := 2, faddr := 2 } ∧
    isOk ((do let p ← macPlace 0 0; loadPhys 0 (sA.ctx 0) p.2 4 p.1 2 false : M (List Syl)).run sA) = true := by decide +kernel

/-- The string machine that waits for a locked line in its second unit. -/
def hold0 : StrHold := { task := 0, pc := 0x1000, gs := [1, 0x2001, 0x2011, 0], loop := { g2 := 0x2001, g3 := 0x2011, units := 1 }, tbl := [] }
def cpuS1 : State :=
  let st := cpuG [(1, 1), (2, 0x2001), (3, 0x2011), (4, 0)] [(0x2001, 0x42)]
  { sys := st.sys.modCore 0 (fun c => { c with strHold := some { hold0 with task := (st.sys.ctx 0).taskid } }) }
theorem test_clause_StringInstructions :
    (((endOf ((drain 0).run (s4of i0 iMV cpuS1))).strHeld 0).map (fun h => h.loop) = some hold0.loop) ∧
    ((cpuS.sys.strHeld 0).map (fun h => h.loop) = none) := by decide +kernel

/-- A slot that a fence has left with an answer owed to it, and one with none; remote slots with and without a module. -/
def sysF : Sys := { cpuX.sys with
  tansy := { slots := [(0, { st := .active 0 }), (3, { st := .testing, owed := [5] })] },
  tabs := { img := { remotes := [none, some { ident := 9, link := 0, toUs := 100 }] } } }
theorem test_clause_RemoteSlots : sysF.fencedFor 5 = some 3 ∧ sysF.fencedFor 0 = none ∧ sysF.rxCheck hdr0 false = (sysF, true) ∧
    (sysF.img.remotes[0]?).getD none = none ∧ ((sysF.img.remotes[1]?).getD none).isSome = true ∧
    ({ tag := 0, rd := 3, slot := 1 } : RemReq).tag = hdr0.tag ∧ hdr0.status = 0 := by decide +kernel

/-- A core that is to leave its context, whose shadow is to close, and whose SAVEL has no area of this entry. -/
def cpuB1 : State := { sys := sysOf { ctxC with shadow := some { pend := 0, count := 0 } } }
def sB1 : Sys := (cpuB1.sys.closeShadow 0).modCore 0 (fun c => { c with switchTo := some none })
theorem test_clause_BanksAndEntries :
    (cpuB.sys.mayFill 0 1 0 = true ∧ (cpuB.sys.campion 0).placing.find? (fun x => cpuB.sys.mayFill 0 x.1 x.2) = some (1, 0)) ∧
    (cpuC.sys.areaFor 0 = none ∧ ctxC.saved.find? (fun v => v.2 = ctxC.sspC) = none) ∧
    ((sB1.core 0).switchTo = some none ∧ (sB1.core 0).stopped = false ∧ (sB1.core 0).slot.isSome = true ∧ sB1.mayLeave 0 = true ∧
      (cpuC.sys.core 0).switchTo = none ∧ cpuB1.sys.mayLeave 0 = false) ∧
    ((cpuB1.sys.ctx 0).shadow = some { pend := 0, count := 0 } ∧ (cpuB1.sys.running 0).isSome = true ∧ ctxC.irqDue = none) := by
  decide +kernel

/-- A store on a line that a posting has locked, and a queue without a waiting entry. -/
def sysQL : Sys := { sN with bus := [(0, { posts := [(0, { posting0 with locks := [0x80] })] })] }
theorem test_clause_StoreCommitWrites : (sysQL.core 0).sq = ent0 :: [] ∧ sysQL.lineLocked ent0.pa = true ∧ sysQL.lineLocked 0x203F = true ∧
    sysQL.lineLocked 0x2040 = false ∧ (sN.core 0).entry = none ∧ ent0.leaf = none := by decide +kernel

/-- No core of a cluster awaits an acknowledgement; one whose IVSYNC may end. -/
theorem test_clause_InvalidationsAndSlotHealth :
    ((∀ j ∈ coresOf (clusterOf 0), (cpuC.sys.core j).waitc ≠ some .ivsync) ∧ 0 ∈ coresOf (clusterOf 0) ∧
      tfind (cpuC.sys.core 0).banks 0 = some ctxC) ∧
    (((cpuC.sys.modCore 0 (fun c => { c with waitc := some .ivsync })).core 0).waitc = some .ivsync ∧ ctxC.ivOut = [] ∧
      (cpuC.sys.core 0).ivSt = 0 ∧ (cpuC.sys.running 0).isSome = true) := by decide +kernel

/-- Rings of 64 entries with room for their header, and full ones. -/
def ringFull : Sys := { (cpuBU [] []).sys with mem := (((cpuBU [] []).sys.wr 0x10000 (wordsToSyls [64])).mem) }
theorem test_clause_PostingSubmission : (sBU iPO []).ringRoom (some 1) 63 = true ∧ (sBU iPO []).ringRoom (some 1) 65 = false ∧
    (sBU iPO []).freeSlot 0 = some 0 ∧ (sBU iPO []).roomFor 0 16 true (some 1) = true ∧
    ({ desc2 with hdr := [mkw 36 [(4, 17), (29, 1)]] } : Desc).nleg = 17 ∧ ({ desc2 with hdr := [mkw 36 [(4, 1), (29, 1)]] } : Desc).nleg = 1 ∧
    (tfind (sBU iPO []).tabs.formats 1 = none) := by decide +kernel

/-- A module that has joined, with locks in each state of R535. -/
def reqJ (part : Option Nat) (st : ReqSt) : List LockReq := [{ part := part, task := (0, 0), st := st }]
def locksJ : Tbl (List LockReq) :=
  [(1, reqJ (some 1) .held), (2, reqJ (some 1) (.granted true 9)), (3, reqJ (some 1) (.granted false 9)), (4, reqJ none .sent)]
def sysJ : Sys := { sBU iLK [] with port := { role := 0, slots := [(0, { live := true })], locks := locksJ } }
theorem test_clause_PostingAndLockInstructions :
    (sysJ.port.role ≠ 3 ∧ sysJ.ownLive = true ∧ (sBU iLK []).ownLive = false ∧ sysJ.lockReqs 5 = [] ∧ (sysJ.ctx 0).custody = false ∧ (sysJ.ctx 0).noPart = false ∧
      ((sysJ.lockReqs 1).find? (fun r => r.part = some 1)).map (fun r => r.st) = some .held ∧
      ((sysJ.lockReqs 2).find? (fun r => r.part = some 1)).map (fun r => r.st) = some (.granted true 9) ∧
      ((sysJ.lockReqs 3).find? (fun r => r.part = some 1)).map (fun r => r.st) = some (.granted false 9) ∧
      (sysJ.lockReqs 4).find? (fun r => r.part = some 1) = none) ∧
    ((sBU iCO [(0, posting0)]).bu 0).posts = [(0, posting0)] ∧ posting0.pid = 7 ∧ posting0.coord = none := by decide +kernel

/-- A posting that was assigned a number, and one whose number must wait for a lower one. -/
def postN (k : Nat) : Posting := { postC with num := some k }
theorem test_clause_CommitPointEffects :
    (cpuBU [(0, postN 70)] []).sys.posting 0 0 = some (postN 70) ∧
    (∃ b ∈ (cpuBU [(0, postN 70), (1, postN 69)] []).sys.bus, ∃ y ∈ b.2.posts, ∃ m, y.2.num = some m ∧ m < 70) ∧
    (∀ b ∈ (cpuBU [(0, postN 70), (1, postN 71)] []).sys.bus, ∀ y ∈ b.2.posts, ∀ m ∈ y.2.num, 70 ≤ m) ∧
    (postK.coord = none ∧ postK.others ≠ [] ∧ postC.dur = false ∧ ({ postC with dur := true } : Posting).dur = true ∧
      postW.coord.isSome = true ∧ ({ postC with wounded := true } : Posting).wounded = true) := by
  refine ⟨by decide +kernel, ⟨_, List.mem_cons_self, (1, postN 69), by decide +kernel, 69, rfl, by decide⟩, by decide +kernel, by decide +kernel⟩

theorem test_clause_WaitingPostings :
    (∀ q : Quad, (cpuC.sys.bu q).preps = []) ∧ (∀ x ∈ cpuC.sys.parts, x.2.held = []) ∧ (∀ q : Quad, (cpuC.sys.bu q).owed = []) ∧
    (∀ x ∈ cpuC.sys.img.pairs, (cpuC.sys.pairSt x.part).late = none) ∧
    ((({ postW with phase := .partReady } : Posting).phase = .partReady ∧ ({ postL with wounded := true } : Posting).phase.past = false ∧
      postL.phase ≠ .partReady ∧ postL.phase ≠ .kind1Wait ∧ postL.coord = none) ∧
     (cpuBU [(0, { posting0 with locks := [0x100] })] []).sys.holder 0x100 ≠ none) := by decide +kernel

/-- A Flush that J0 has not completed, a ring that stopped, and a record that cannot be read. -/
def sysJn (b : Bu) : Sys := { (cpuBU [] []).sys with bus := [(0, b)] }
theorem test_clause_JournalEffects :
    (((sysJn { fl0 := [3, 4] }).bu 0).fl0 = 3 :: [4] ∧ ((sysJn {}).bu 0).fl0 = []) ∧ ((sysJn { stuck := true }).bu 0).stuck = true ∧
    ({ sysJn { recs := [jr0] } with poison := [0] } : Sys).poisonedSpan ((sysJn { recs := [jr0] }).recAddr 0 0) 128 = true ∧
    ([(64, List.replicate 128 (0 : Syl))] ≠ [] ∧ (List.replicate 28 (64, ([] : List Syl))).length ≤ 28) ∧
    ((sysJn { recs := [jr0] }).bu 0).recs.filter (fun r => !r.wrote) ≠ [] := by decide +kernel

theorem test_clause_PostingMessages :
    (let b : Sys := { sysPeer with bus := [(0, { kind2 := [(7, 64)], posts := [(0, { posting0 with phase := .kind2Wait })], preps := [(hdr0, prep0)] })] }
     b.decision 7 = some 64 ∧ b.decision 8 = none ∧ b.undecided 7 = true ∧ b.undecided 8 = false ∧ (b.bu 0).preps ≠ []) ∧
    (({ sysPeer with bus := busOf [(0, { postK with phase := .partWait })] [] } : Sys).coordOf { hdr0 with tag := 0xC000 } 7).isSome = true ∧
    sysPeer.coordOf hdr0 7 = none ∧ ({ hdr0 with status := 201 } : PktHdr).status = 201 ∧ postK.phase.past = true := by decide +kernel

/-- A completion ring whose header a posting has locked. -/
def sysDl : Sys := { sysDma { chIdle with lists := [lDone] } false with bus := [(0, { posts := [(0, { posting0 with locks := [0x20000 / 64] })] })] }
theorem test_clause_DmaChannels : (sysDma { chIdle with lists := [lDone] } false).ringOpen part1.dcr 16 = true ∧
    sysDl.ringOpen part1.dcr 16 = false ∧ ((sysDl.chan 0 0).lists = [lDone]) ∧ cfgMode (0x100000000 : Word) = 1 ∧
    sysDl.lineLocked 0x20000 = true := by decide +kernel

theorem test_clause_PartitionLifecycle :
    ((sysLife 1 none).freeIndex ((sysLife 1 none).part 1).firstCluster).isSome = true ∧
    (((sysLife 3 (some true)).part 1).holding = some true ∧ ({ (sysLife 3 (some true)).pf with busy := true } : Pf).busy = true) ∧
    ((sysLife 2 none).pf.busy = false ∧ (sysLife 2 none).pf.ready = true ∧ (sysLife 2 none).pf.fcomm = true) ∧
    ((sysLife 3 none).part 1).st = 3 ∧ ((sysLife 4 none).part 1).st = 4 ∧
    (let s : Sys := (sysOf { ctxO with status := 0 }).modCamp 0 (fun c => { c with tasks := [(0, { state := 2, resid := some (0, 0), part := 1 })] })
     s.runningOf 1 ≠ [] ∧ s.runningOf 2 = []) := by decide +kernel

theorem test_clause_QueuePairs : (sysQp qpOn).ringOpen (6, 0x30000) (slotSize qpOn.slotsz) = true ∧
    ({ sysQp qpOn with bus := [(0, { posts := [(0, { posting0 with locks := [0x30000 / 64] })] })] } : Sys).ringOpen (6, 0x30000) (slotSize qpOn.slotsz) = false ∧
    ({ qpOn with coal := true } : Qp).coal = true ∧ 3 < qpOn.size ∧ ¬ 4 < qpOn.size := by decide +kernel

/-- A port that contends: it wins against a lower value, not against a higher one, and not before the first TIME. -/
def stWin (ts : Bool) : State := (stScb 0 true [.lkacq 7 none] {}).modPort (fun p => { p with tsync := ts })
theorem test_clause_ShelfLockCommands : (stWin true).wins false busY = true ∧ (stWin true).wins false { busY with rivals := [1] } = false ∧
    (stWin true).wins false { busY with rivals := [0] } = true ∧ (stWin false).wins false busY = false ∧ (stWin false).wins true busY = true ∧
    ((stWin true).modPort (fun p => { p with acount := 63 })).wins false { busY with rivals := [1] } = true ∧
    (∀ m ∈ (stScb 0 true [] {}).sys.port.out, namesLock 7 m = false) ∧ (254 ≤ 510 % 256 ∧ 509 % 256 < 254) := by decide +kernel
/-- A packet with every field at the top of its range comes back from its syllables, and a frame returns what the link owes. -/
def pktTop : Packet := { link := 3, vc := 3, typ := 63, dest := -1, src := -1, sepoch := -1, depoch := -1, part := 1023,
                         status := 1023, tag := -1, seg := 7, last := true, poison := true, body := List.replicate 56 511 }
theorem test_clause_FabricLinks : packetOf 3 (packetSyls pktTop) = pktTop ∧ pktTop.body.length ≤ 56 ∧
    (sendReady { st := 2, egress := [pkt0 1], owe := [0, 0, 5, 1] }).owe = [0, 0, 0, 1] ∧
    ((sendReady { st := 2, egress := [pkt0 1], owe := [0, 0, 5, 1] }).sent.map (fun f => (f.credVc, f.credit))) = [(2, 5)] ∧
    ({ (sysFab 2) with port := {} } : Sys).ownLive = false := by decide +kernel
theorem test_clause_ShelfLivenessCommands :
    tfind ((stScb 0 true [] {}).modPort (fun p => { p with copies := [(1, (12, 0, true))] })).sys.port.copies 1 = some (12, 0, true) ∧
    tfind (stScb 0 true [] {}).sys.port.copies 1 = none ∧
    ((stScb 1 true [] { out := [.epoch 1 false 0 1], again := true }).master.again = true ∧ ({} : Master).again = false) ∧
    (((stScb 0 true [.notice 0 1] {}).modPort (fun p => { p with again := true })).sys.port.again = true) ∧
    ((stScb 3 true [] {}).modPort (fun p => { p with joining := true })).sys.port.joining = true := by decide +kernel

/-- A standby's buffer line that a Balance Unit holds, and a seal that waits for it. -/
def sysPl : Sys := { sysPair true { got := [(0, List.replicate 64 0, false)] } with
  bus := [(0, { posts := [(0, { posting0 with locks := [0x10000 / 64] })] })] }
theorem test_clause_PairedPartitions :
    sysPl.spanLocked 0x10000 64 = true ∧ (sysPair true {}).spanLocked 0x10000 64 = false ∧ sysPl.spanLocked 0x10040 64 = false ∧
    ((sysPl.pairSt 1).got = [(0, List.replicate 64 0, false)]) ∧
    (∀ r ∈ ({ recs := [] } : PairSt).recs, strDurable r = true) := by decide +kernel

def iLW : Instr := .lw i0 3 1 0
/-- What memory holds at the PC: a legal word, the zero parcel, a long word of the reserved major 0o00. -/
theorem test_clause_InstructionFrames :
    isOk ((fetch i0 iLW true).run (on iLW cpuC).sys) = true ∧
    excOf ((fetch i0 iLW true).run { cpuC.sys with mem := [] }) = some { cls := 1, code := 1 } ∧
    excOf ((fetch i0 iLW true).run { cpuC.sys with mem := [(0x1000, 0x180)] }) = some { cls := 1, code := 1 } ∧
    (match (fetch i0 iLW true).run (on (.addi i0 1 2 3) cpuC).sys with
      | .error .other _ => true
      | _ => false) = true ∧
    (encodeWord (.addi i0 1 2 3)).isSome = true := by decide +kernel

/-! ## Ill-formed commands: one for each check, and a well-formed neighbour -/

/-- R398: 2^38 syllables of memory. -/
theorem test_wf_memory_addresses :
    Instr.wf (.ret { i0 with hw := .cacheUnc 0x4000000000 }) = false ∧ Instr.wf (.ret { i0 with hw := .cacheUnc 0x3FFFFFFFFF }) = true ∧
    Instr.wf (.forward 0x100000000 false) = false ∧ Instr.wf (.forward 0xFFFFFFFF false) = true ∧
    Instr.wf (.writeback .tansy 0x100000000) = false ∧ Instr.wf (.readRequest .tansy 0x100000000 []) = false ∧
    Instr.wf (.ownershipRequest .tansy 0x100000000 []) = false ∧ Instr.wf (.lockRelease 0 0x100000000) = false := by decide
/-- R432: an access without caching stays within one line. -/
theorem test_wf_uncached :
    Instr.wf (.uncachedRead .tansy 60 5 []) = false ∧ Instr.wf (.uncachedRead .tansy 60 4 []) = true ∧
    Instr.wf (.uncachedRead .tansy 0 0 []) = false ∧ Instr.wf (.uncachedWrite .tansy 63 [0, 0]) = false ∧
    Instr.wf (.partialWrite .tansy 0 []) = false ∧ Instr.wf (.partialWrite .tansy 63 [0]) = true := by decide

def hdrT : PktHdr := { link := 0, src := 1, sepoch := 0, depoch := 0, part := 1023, status := 0, tag := 0 }
def legT : Leg := { idx := 15, rmt := false, cix := 3, ident := 0, lpart := 1, resv := false, addr := 64, amt := List.replicate 16 0 }
def prepT : PrepMsg := { age := { stamp := 0, ident := 0, quad := 0, slot := 0 }, pid := 0, cpart := 1, fmt := 0, tmo := 0, curs := [999], legs := [legT] }
/-- R553, R254, R278. -/
theorem test_wf_packets :
    Instr.wf (.nak hdrT) = true ∧ Instr.wf (.nak { hdrT with part := 1024 }) = false ∧ Instr.wf (.nak { hdrT with status := 1024 }) = false ∧
    Instr.wf (.prepPacket hdrT prepT) = true ∧ Instr.wf (.prepPacket hdrT { prepT with legs := [] }) = false ∧
    Instr.wf (.prepPacket hdrT { prepT with legs := [{ legT with idx := 16 }] }) = false ∧
    Instr.wf (.prepPacket hdrT { prepT with legs := [{ legT with cix := 4 }] }) = false ∧
    Instr.wf (.prepPacket hdrT { prepT with legs := [{ legT with amt := [0] }] }) = false ∧
    Instr.wf (.prepPacket hdrT { prepT with legs := [{ legT with lpart := 1024 }] }) = false ∧
    Instr.wf (.prepPacket hdrT { prepT with curs := [1000] }) = false ∧ Instr.wf (.prepPacket hdrT { prepT with fmt := 64 }) = false ∧
    Instr.wf (.prepPacket hdrT { prepT with cpart := 1024 }) = false ∧ Instr.wf (.pans hdrT 0 16) = false ∧
    Instr.wf (.echo hdrT []) = false ∧ Instr.wf (.pstrm hdrT 0 []) = false ∧ Instr.wf (.prdata hdrT 0 [] false) = false ∧
    Instr.wf (.pckd hdrT 0 []) = false := by decide

def pktT : Packet := { link := 0, vc := 3, typ := 63, dest := 1, src := 1, sepoch := 0, depoch := 0, part := 0, status := 0, tag := 0,
                       seg := 7, last := true, poison := false, body := [] }
def frameT : Frame := { fseq := 0, packet := [], credVc := 0, credit := 0, crc := 0, fecBad := false }
/-- R547, R553. -/
theorem test_wf_frames :
    Instr.wf (.packetForward pktT) = true ∧ Instr.wf (.packetForward { pktT with vc := 4 }) = false ∧
    Instr.wf (.packetForward { pktT with typ := 64 }) = false ∧ Instr.wf (.packetForward { pktT with part := 1024 }) = false ∧
    Instr.wf (.packetForward { pktT with status := 1024 }) = false ∧ Instr.wf (.packetForward { pktT with seg := 8 }) = false ∧
    Instr.wf (.packetForward { pktT with body := List.replicate 57 0 }) = false ∧ Instr.wf (.frame 0 frameT) = true ∧
    Instr.wf (.frame 0 { frameT with packet := List.replicate 73 0 }) = false ∧ Instr.wf (.frame 0 { frameT with credVc := 4 }) = false ∧
    Instr.wf (.frame 0 { frameT with credit := 65536 }) = false := by decide
/-- R584. -/
theorem test_wf_tables :
    Instr.wf (.tableLoad {} []) = true ∧ Instr.wf (.tableLoad { lsize := 11 } []) = false ∧ Instr.wf (.tableLoad { rsz := 9 } []) = false ∧
    Instr.wf (.tableLoad { parts := [(1024, [])] } []) = false ∧ Instr.wf (.tableLoad { formats := [(64, 0)] } []) = false ∧
    Instr.wf (.tableLoad { rules := [(64, 0, 0)] } []) = false ∧ Instr.wf (.tableLoad { pages := [(0, 0, [])] } []) = false ∧
    Instr.wf (.tableLoad { patterns := [(16, 0, [])] } []) = false ∧ Instr.wf (.tableLoad { ageSteps := List.replicate 8 0 } []) = false := by decide
/-- R503, R504, R506, R638, and the ranges of the remaining operands. -/
theorem test_wf_ranges :
    Instr.wf (.narrowRead 0 2 2) = true ∧ Instr.wf (.narrowRead 0 8 8) = false ∧ Instr.wf (.narrowRead 1025 0 1) = false ∧
    Instr.wf (.narrowRead 1 0x10000 1) = false ∧ Instr.wf (.narrowRead 0 0 0) = false ∧ Instr.wf (.registerWrite 0 0 4 0xFFFFFFFF) = true ∧
    Instr.wf (.registerWrite 0 0 4 0x100000000) = false ∧ Instr.wf (.registerWrite 0 0 65 0) = false ∧
    Instr.wf (.wound 0 576) = false ∧ Instr.wf (.commitPoint 0 576) = false ∧ Instr.wf (.prepTimeout 0 576) = false ∧
    Instr.wf (.resolveTimer 0 576) = false ∧ Instr.wf (.timerExpiry 0 4096) = false ∧ Instr.wf (.busError 0 .poison 0x1000000000000) = false ∧
    Instr.wf (.nop false 1024) = false ∧ Instr.wf (.partStart .custody 1024) = false ∧ Instr.wf (.commandComplete 1025) = false ∧
    Instr.wf (.flashRead false 8192) = false ∧ Instr.wf (.sqDoorbell 1 0 0x1000000000) = false ∧
    Instr.wf (.responseSend 1 0 65536 [] false) = false ∧ Instr.wf (.lease 0 11 0 busY) = false ∧ Instr.wf (.zeroFill 0 0x10000) = false ∧
    Instr.wf (.imageCheck true true 0x40000) = false ∧ Instr.wf (.readyReport 0x40000) = false ∧ Instr.wf (.i3cRead 0x100000) = false ∧
    Instr.wf (.i3cWrite 0 0x10000000000000000) = false ∧ Instr.wf (.partitionSideSetup 1 0 0 0 0 5) = false ∧
    Instr.wf (.partitionSideSetup 1 0 0 0 0 20) = true := by decide

/-! ## Worked examples of the spec, one command each -/

/-- The machine after an instruction whose word stands where core 0 fetches it. -/
def res (i : Instr) (s : State) : Sys :=
  match encodeWord i with
  | some (n, w) =>
    match exec i { s with sys := { s.sys with mem := msets s.sys.mem (s.sys.ctx 0).pc.toNat ((sylsW w).take n) } } with
    | .next t => t.sys
    | _ => {}
  | none => {}
def one (x : Ctx) (m : Tbl Syl) : State := { sys := { sysOf x with mem := m } }
def put (a n v : Nat) : Tbl Syl := ((List.range n).map (fun j => a + j)).zip (sylsOf n v)
def oct (a : Nat) (l : List Nat) : Tbl Syl := ((List.range l.length).map (fun j => a + j)).zip (l.map (BitVec.ofNat 9))
def sees (s : Sys) (a n : Nat) : List Nat := (s.rd a n).map (·.toNat)

/-- 04, worked example: the second pass adds 2,000 to 1,000; a marked sum would not. -/
theorem test_add : let s := res (.add i0 (.short 6 7)) (cpuG [(6, 0o1750), (7, 0o3720)] [])
    (s.gr 0 6, (s.ctx 0).pc) = (0o5670, 0x1002) := by decide +kernel
/-- By R120 the bit 27 of 2,000 counts as a mark too; the example of 04 keeps it, against the rule. -/
theorem test_clrmk : (res (.clrmk i0 7 7) (cpuG [(7, 0o400000003720)] [])).gr 0 7 = 0o3320 := by decide +kernel
theorem test_addis : (res (.addis i0 8 4) (cpuG [(8, 0o1000)] [])).gr 0 8 = 0o1004 := by decide +kernel
theorem test_lws : (res (.lws i0 7 8 0) (cpuG [(8, 0o300000004)] (put 0o300000004 4 0o400000003720))).gr 0 7 = 0o400000003720 := by
  decide +kernel
/-- 04, worked example: LOOP G5, E = 3 at 0o200000000 begins 4 syllables on and ends 10 on. -/
theorem test_loop : let x := (res (.loop i0 5 3) (one { ctxC with pc := 0o200000000, g := [(5, 3)] } [])).ctx 0
    (x.lbeg, x.lend, x.pc, stLA x.status, stLREG x.status) = (0o200000004, 0o200000012, 0o200000004, true, 5) := by decide +kernel

/-- 05, worked example: three MAC2 steps end with the accumulator at 3,956,162,497,000; here the last of them. -/
def cpuMac : State :=
  let x : Ctx := { ctxC with g := [(8, 0o500000010), (9, 0o510000010)] }
  { sys := { sysOf x with cores := [(0, { coreOf x with fu := { owner := some 0, acc := 3955462500000 } })]
                          mem := put 0o500000010 4 7300 ++ put 0o510000010 4 95890 } }
theorem test_mac2 : let s := res (.mac2 i0 8 9 false true true) cpuMac
    (s.core 0).fu.acc = 3956162497000 ∧ s.gr 0 8 = 0o500000014 ∧ s.gr 0 9 = 0o510000014 := by decide +kernel
def cpuMark : State :=
  one { ctxC with g := [(8, 0o500000010), (9, 0o510000000)] } (put 0o500000010 4 7300 ++ put 0o510000000 4 0o400000273222)
/-- 05, worked example: the mark of the rate's first syllable is cleared when M = 1. -/
theorem test_mac2_mark : let s := res (.mac2 i0 8 9 false true false) cpuMark
    (s.core 0).fu.acc = 699997000 := by decide +kernel

/-- 03, worked example: PUTC of STATUS leaves the status in use and makes the word pending with count 3. -/
theorem test_putc_status : let s := res (.putc i0 7 0) (one { ctxO with status := 0o206400000000, g := [(7, 0o312400000000)] } [])
    ((s.ctx 0).status, (s.ctx 0).shadow) = (0o206400000000, some { pend := 0o312400000000, count := 3 }) := by decide +kernel

/-- 10, worked example: SVC 3,100 at LEND with G5 = 2. -/
def cpuCall : State :=
  one { ctxO with
    pc := 0o400000006, status := 0o106422400000, g := [(5, 2)], lbeg := 0o400000004, lend := 0o400000006, sspC := 0o10000000
    wo := { exts := [(0, setBit extAll 5 true)] }
    wc := { exts := [(0, extAll)] } } []
theorem test_svc : let s := res (.svc i0 3100) cpuCall
    (s.gr 0 5, (s.ctx 0).status, (s.ctx 0).sspC) = (1, 0o600400000000, 0o7777740) := by decide +kernel
theorem test_svc_frame : let s := res (.svc i0 3100) cpuCall
    (s.core 0).sq.map (fun e => (e.va, e.data)) =
      [(0o7777740, sylsD (mkd 0o400000004 0o106422400000)), (0o7777750, sylsD (mkd 0o440000006034 0)),
       (0o7777760, sylsD (mkd 0o106422400000 0)), (0o7777770, sylsD 0)] := by decide +kernel

/-- 06, worked example (a transfer fee): DZAP and DMULR with rule 3, half-even, and scale 5. -/
def cpuFee (fee : List Nat) : State :=
  let x : Ctx := { ctxC with g := [(8, 0o600000000), (9, 0o600000010), (10, 0o600000020)] }
  { sys := { sysOf x with
      cores := [(0, { coreOf x with du := { owner := some 0, drs := 0o612000 } })]
      tabs := { rules := [(3, 0o600000101722)] }
      mem := oct 0o600000000 [0, 4, 0x83, 0x60, 0x0C] ++ oct 0o600000010 [0x12, 0x5C] ++ oct 0o600000020 fee } }
theorem test_dzap : let s := res (.dzap i0 10 8 3 4) (cpuFee [])
    sees s 0o600000020 4 = [4, 0x83, 0x60, 0x0C] ∧ fld (s.core 0).du.drs 33 35 = 1 := by decide +kernel
theorem test_dmulr : let s := res (.dmulr i0 10 9 3 1) (cpuFee [4, 0x83, 0x60, 0x0C])
    sees s 0o600000020 4 = [0, 0, 0x60, 0x4C] ∧ kbit (s.core 0).du.drs 32 = true := by decide +kernel

/-- 07, pattern table 2 of the examples. -/
def pent (o dig fs zc : Nat) (l : List Nat) : DWord :=
  mkw 72 ([(0, 1), (8, o), (9, dig), (10, fs), (11, zc)] ++
    ([38, 41, 43, 45, 48, 51, 53, 55, 58, 61, 63, 65].zip l))
def table2 : PatTable :=
  { hdr := mkw 72 [(0, 1), (8, 0x30), (16, 0x20)],
    ents := [pent 0x23 1 0 0 [0, 1, 0, 1, 1, 1, 1, 1, 1, 1, 2, 2], pent 0x40 1 0 0 [0, 1, 1, 1, 1, 1, 1, 1, 1, 1, 2, 2],
             pent 0x2E 0 0 0 [2, 0, 2, 0, 2, 0, 2, 0, 2, 0, 2, 0], pent 0x2A 0 1 0 [6, 0, 0, 0, 6, 0, 1, 0, 6, 0, 2, 0],
             pent 0x7C 0 0 1 [0, 0, 0, 0, 0, 0, 0, 0, 0, 0, 0, 0], pent 0x43 0 0 0 [0, 0, 0, 0, 4, 0, 1, 0, 4, 0, 2, 0],
             pent 0x52 0 0 0 [0, 0, 0, 0, 4, 0, 1, 0, 4, 0, 2, 0], pent 0x2D 0 0 0 [0, 0, 0, 0, 4, 0, 1, 0, 4, 0, 2, 0]] }
theorem test_pattern_entry : table2.ents.head? = some (mkd 0o443400000000 0o010445223200) := by decide +kernel

/-! ## Words, bit by bit from the formats and the tables of 04 to 08 and 10 -/

/-- A short parcel as the first half of a word. -/
def parcel (p : Half) : Word := p ++ (0 : Half)

/-- 04, worked example: LOOP, LWS, CLRMK, ADD and ADDIS of the loop over the totals. -/
theorem test_words_loop : decodeWord i0 0o732241400000 = some (.loop i0 5 3) ∧ decodeWord i0 (parcel 0o207200) = some (.lws i0 7 8 0) ∧
    decodeWord i0 (parcel 0o026347) = some (.clrmk i0 7 7) ∧ decodeWord i0 (parcel 0o002307) = some (.add i0 (.short 6 7)) ∧
    decodeWord i0 (parcel 0o110004) = some (.addis i0 8 4) := by decide
/-- R121, R137, R148: the zero parcel, JR with rd, and CP3 are no instructions. -/
theorem test_words_reserved : decodeWord i0 (parcel 0) = none ∧ decodeWord i0 (parcel 1) = some (.mov i0 0 1) ∧
    decodeWord i0 0b110000000000000000000000000000000000 = none ∧ decodeWord i0 0b111011000000100000000000000000000000 = none ∧
    decodeWord i0 0b111110110000000000000000000000000000 = none := by decide
/-- Register pairs, branches and the system group in 18 bits. -/
theorem test_words_short : decodeWord i0 (parcel 0b000100010010000100) = some (.daddr i0 4 4) ∧
    decodeWord i0 (parcel 0b011000001111111110) = some (.beqz i0 1 510) ∧ decodeWord i0 (parcel 0b101111111111111110) = some (.brs i0 16382) ∧
    decodeWord i0 (parcel 0b101000010000000000) = some (.mvs i0 false) ∧ decodeWord i0 (parcel 0b101000010000000001) = none := by decide
/-- Integer, multiply, load, compare-and-branch and CALL words. -/
theorem test_words_integer : decodeWord i0 0b110000010000100010000110000000000010 = some (.addv i0 false 1 2 3) ∧
    decodeWord i0 0b110000110000100010000110000000000101 = some (.div i0 1 2 3) ∧
    decodeWord i0 0b110011010000100010111111111111111100 = some (.lw i0 1 2 (-4)) ∧
    decodeWord i0 0b111000100000100010000000000000001000 = some (.blt i0 1 2 8) ∧
    decodeWord i0 0b111010110000000000000000000000000111 = some (.call i0 7) ∧
    decodeWord i0 0b110101110000000001000100000000000101 = some (.mac2 i0 1 2 true false true) := by decide
/-- Float words: FDIV of long floats and FCVT to short. -/
theorem test_words_float : decodeWord i0 0b110110010000100010000110000000000011 = some (.fdiv i0 true 1 2 3) ∧
    decodeWord i0 0b110110100000100010000000000000000000 = some (.fcvtsl i0 1 2) := by decide
/-- Control registers and the system format. -/
theorem test_words_system : decodeWord i0 0b111011100011101000000000000000000001 = some (.putc i0 7 1) ∧
    decodeWord i0 0b111011110000000000000000110000011100 = some (.svc i0 0b110000011100) ∧
    decodeWord i0 0b111011110010100000100010000000000000 = some (.skset i0 1 2) := by decide
/-- Decimal and string words. -/
theorem test_words_decimal : decodeWord i0 0b111100000000100010000011000001000000 = some (.dadd i0 1 2 3 1) ∧
    decodeWord i0 0b111100010000100010000011000001000000 = some (.pack i0 1 2 3 1) ∧
    decodeWord i0 0b111100100000100010000011000001000001 = some (.dmac i0 1 2 3 1 false true) ∧
    decodeWord i0 0b111100110100011110000000000000000000 = some (.cnv i0 7 true) := by decide
/-- Words of CP0, CP1, CP2 and a remote slot. -/
theorem test_words_cp : decodeWord i0 0b111110000000000011000000000000000000 = some (.post i0 3) ∧
    decodeWord i0 0b111110010000100010000110000000000001 = some (.shstep i0 1 2 3) ∧
    decodeWord i0 0b111110100000100010000110000000000001 = some (.cptou i0 1 2 3) ∧
    decodeWord i0 0b111111010000100010000110000000000101 = some (.cpRemote i0 1 1 2 3 5) := by decide

end Sys2Proof.Tests
end

section
/-! SUPPORT. How the parts of calls, returns and counted loops run (03 R106, R107; 04 R134, R139, R141). -/

namespace Sys2Proof.Machine

theorem run_target {t : Int} (h0 : 0 ≤ t) (ht : t < 2 ^ 36) (s : Sys) : (target t).run s = .ok t.toNat s := by
  have inside : ¬ (t < 0 ∨ (vaTop : Int) ≤ t) := by simp only [vaTop]; omega
  simp only [target, Bool.or_eq_true, decide_eq_true_eq, if_neg inside, run_pure]

theorem run_regTarget_even {v : Word} (even : v.getLsbD 0 = false) (s : Sys) : (regTarget v).run s = .ok v.toNat s := by
  simp only [regTarget, even, Bool.false_eq_true, if_false, run_pure]

theorem run_regTarget_odd {v : Word} (odd : v.getLsbD 0 = true) (s : Sys) :
    (regTarget v).run s = .error (.exc { cls := 1, code := 4, faddr := v.toNat } false) s := by
  simp only [regTarget, odd, if_true, run_bind, run_misaligned]

@[simp] theorem run_jumpTo (k t : Nat) (clr : Bool) (s : Sys) :
    (jumpTo k t clr).run s = .ok (.jump t clr) (s.learn k none (some t)) := rfl

@[simp] theorem run_updCur (k : Nat) (f : WorldRegs → WorldRegs) (s : Sys) :
    (updCur k f).run s = .ok () (s.modCtx k (fun x => x.setCur (f x.cur))) := rfl

/-! ## The return stack -/

/-- A new entry in the return-stack bank of the current world (R106). -/
def Sys.pushed (k : Nat) (v : Word) (s : Sys) : Sys :=
  s.modCtx k (fun x => x.setCur { x.cur with rbank := x.cur.rbank ++ [v] })

section
variable {k : Nat} {s : Sys}

theorem run_pushRet_room (h : (s.ctx k).cur.rbank.length < 16) (v : Word) :
    (pushRet k v).run s = .ok () (s.pushed k v) := by
  simp only [pushRet, Sys.pushed, run_bind, run_ctxM, if_neg (Nat.not_le.mpr h), run_updCur]

theorem run_popRet_bank {l : List Word} {v : Word} (h : (s.ctx k).cur.rbank = l ++ [v]) :
    (popRet k).run s = .ok (v, { (s.ctx k).cur with rbank := l }) s := by
  have filled : (!(l ++ [v]).isEmpty) = true := by cases l <;> rfl
  simp only [popRet, run_bind, run_ctxM, h, if_pos filled, run_pure, List.getLastD_concat, List.dropLast_concat]

theorem run_popRet_memory {v : Word} {s' : Sys} (h : (s.ctx k).cur.rbank = [])
    (hr : (s.ctx k).cur.rsb.toNat < (s.ctx k).cur.rsp.toNat)
    (hv : Ends (loadW k ((s.ctx k).cur.rsp.toNat - 4 : Nat)) s v s') :
    (popRet k).run s = .ok (v, { (s.ctx k).cur with rsp := (s.ctx k).cur.rsp - 4 }) s' := by
  rw [Ends] at hv
  simp only [popRet, run_bind, run_ctxM, h, List.isEmpty_nil, Bool.not_true, Bool.false_eq_true, if_false,
    if_neg (Nat.not_le.mpr hr), hv, run_pure]

theorem run_popRet_underflow (h : (s.ctx k).cur.rbank = []) (hr : (s.ctx k).cur.rsp.toNat ≤ (s.ctx k).cur.rsb.toNat) :
    (popRet k).run s = .error (.exc { cls := 5, code := 2, faddr := (s.ctx k).cur.rsp.toNat } false) s := by
  simp only [popRet, run_bind, run_ctxM, h, List.isEmpty_nil, Bool.not_true, Bool.false_eq_true, if_false, if_pos hr,
    run_raise]

/-! ## The counted loop -/

theorem run_loopBody_G0 (e : BitVec 6) : (loopBody k 0 e).run s = .error (.exc { cls := 1, code := 1 } false) s := by
  simp only [loopBody, run_bind, if_true, run_illegal]

theorem run_loopBody_counts {c : Reg} (hc : c ≠ 0) (hv : s.gr k c ≠ 0) (e : BitVec 6) :
    (loopBody k c e).run s = .ok (.jump ((s.ctx k).pc + 4).toNat false) (s.modCtx k (fun x =>
      { x with lbeg := x.pc + 4, lend := BitVec.ofNat 36 ((s.ctx k).pc.toNat + 4 + 2 * e.toNat),
               status := setFld (setBit x.status 13 true) 14 18 c.val })) := by
  simp only [loopBody, run_bind, run_ctxM, run_rG, run_modX, run_pure, if_neg hc, if_neg hv]

end

end Sys2Proof.Machine
end

section
/-! PROOF. O11: calls, returns, register jumps and the counted loop. -/

namespace Sys2Proof.Machine

section
variable {a : Issue} {st : State} {s1 : Sys}

/-! ## Calls (R106, R134, R138) -/

theorem exec_call_room {off : BitVec 28} (h : Issued a (.call a off) 4 st.sys s1)
    (room : (s1.ctx a.core).cur.rbank.length < 16) (h0 : 0 ≤ relTarget (s1.ctx a.core).pc off)
    (ht : relTarget (s1.ctx a.core).pc off < 2 ^ 36) :
    exec (.call a off) st = doneBy a 4 (.jump (relTarget (s1.ctx a.core).pc off).toNat false) st
      ((s1.pushed a.core ((s1.ctx a.core).pc + 4)).learn a.core none
        (some (relTarget (s1.ctx a.core).pc off).toNat)) :=
  instr_ok h (by simp only [run_bind, run_ctxM, run_target h0 ht, run_pushRet_room room, run_jumpTo])

theorem exec_callr_room {ra : Reg} (h : Issued a (.callr a ra) 4 st.sys s1)
    (room : (s1.ctx a.core).cur.rbank.length < 16) (even : (s1.gr a.core ra).getLsbD 0 = false) :
    exec (.callr a ra) st = doneBy a 4 (.jump (s1.gr a.core ra).toNat false) st
      ((s1.pushed a.core ((s1.ctx a.core).pc + 4)).learn a.core none
        (some (s1.gr a.core ra).toNat)) :=
  instr_ok h (by simp only [run_bind, run_ctxM, run_rG, run_regTarget_even even, run_pushRet_room room, run_jumpTo])

theorem exec_callr_odd {ra : Reg} (h : Issued a (.callr a ra) 4 st.sys s1) (odd : (s1.gr a.core ra).getLsbD 0 = true) :
    exec (.callr a ra) st = trapBy a { cls := 1, code := 4, faddr := (s1.gr a.core ra).toNat } st s1 :=
  instr_exc h (by simp only [run_bind, run_ctxM, run_rG, run_regTarget_odd odd])

/-! ## The register jump (R137, R139) -/

theorem exec_jr {ra : Reg} (h : Issued a (.jr a ra) 4 st.sys s1) : exec (.jr a ra) st =
    if (s1.gr a.core ra).getLsbD 0 then trapBy a { cls := 1, code := 4, faddr := (s1.gr a.core ra).toNat } st s1
    else doneBy a 4 (.jump (s1.gr a.core ra).toNat true) st (s1.learn a.core none (some (s1.gr a.core ra).toNat)) := by
  cases parity : (s1.gr a.core ra).getLsbD 0 with
  | true => exact instr_exc h (by simp only [run_bind, run_rG, run_regTarget_odd parity])
  | false => exact instr_ok h (by simp only [run_bind, run_rG, run_regTarget_even parity, run_jumpTo])

/-! ## The return (R107, R139) -/

/-- RET after its pop: the address decides, and the exception leaves the stack as it was. -/
theorem exec_ret_popped {s2 : Sys} {v : Word} {r : WorldRegs} (h : Issued a (.ret a) 2 st.sys s1)
    (pop : (popRet a.core).run s1 = .ok (v, r) s2) : exec (.ret a) st =
    if v.getLsbD 0 then trapBy a { cls := 1, code := 4, faddr := v.toNat } st s2
    else doneBy a 2 (.jump v.toNat false) st (s2.modCtx a.core (fun x => x.setCur r)) := by
  cases parity : v.getLsbD 0 with
  | true => exact instr_exc h (by simp only [run_bind, pop, run_regTarget_odd parity])
  | false => exact instr_ok h (by simp only [run_bind, pop, run_regTarget_even parity, run_updCur, run_pure])

theorem exec_ret_underflow (h : Issued a (.ret a) 2 st.sys s1) (empty : (s1.ctx a.core).cur.rbank = [])
    (low : (s1.ctx a.core).cur.rsp.toNat ≤ (s1.ctx a.core).cur.rsb.toNat) :
    exec (.ret a) st = trapBy a { cls := 5, code := 2, faddr := (s1.ctx a.core).cur.rsp.toNat } st s1 :=
  instr_exc h (run_bind_error (run_popRet_underflow empty low))

end

/-- Settles O11: each clause is the run of the instruction's parts from the state after the fetch. -/
theorem callReturnLoop : Obligations.CallReturnLoop := by
  unfold Obligations.CallReturnLoop
  intro a st s1 ra off e k x V pushed
  refine ⟨?call, ?callr, ?jr, ?callrOdd, ?retBank, ?retBankOdd, ?retMemory, ?retUnderflow, ?loopG0, ?loopCounts⟩
  case call => exact fun room h0 ht h => exec_call_room h room h0 ht
  case callr => exact fun room even h => exec_callr_room h room even
  case jr => exact exec_jr
  case callrOdd => exact fun odd h => exec_callr_odd h odd
  case retBank =>
    intro l v bank even h
    rw [exec_ret_popped h (run_popRet_bank bank), even, if_neg Bool.false_ne_true]
  case retBankOdd =>
    intro l v bank odd h
    rw [exec_ret_popped h (run_popRet_bank bank), odd, if_pos rfl]
  case retMemory => exact fun empty above v s2 load h => exec_ret_popped h (run_popRet_memory empty above load)
  case retUnderflow => exact fun empty low h => exec_ret_underflow h empty low
  case loopG0 =>
    rintro rfl h
    exact instr_exc h (run_loopBody_G0 e)
  case loopCounts => exact fun hc hv h => instr_ok h (run_loopBody_counts hc hv e)

end Sys2Proof.Machine
end

section
/-! SUPPORT. How the checked operations run (03 R84; 05 R156). -/

namespace Sys2Proof.Machine

theorem fitsS_iff (n : Nat) (v : Int) : fitsS n v = true ↔ -(2 ^ (n - 1) : Int) ≤ v ∧ v < (2 ^ (n - 1) : Int) := by
  simp only [fitsS, Bool.and_eq_true, decide_eq_true_eq]

section
variable {k : Nat} {rd ra rb : Reg} {op : Int → Int → Int} {s : Sys}

theorem run_checkedBody_word : (checkedBody k false rd ra rb op).run s =
    if fitsS 36 (op (sgn (s.gr k ra)) (sgn (s.gr k rb)))
      then .ok () (s.putR k rd (BitVec.ofInt 36 (op (sgn (s.gr k ra)) (sgn (s.gr k rb)))))
      else .error (.exc { cls := 6, code := 1 } false) s := by
  simp only [checkedBody, Bool.false_eq_true, if_false, run_bind, run_rG]
  cases fitsS 36 (op (sgn (s.gr k ra)) (sgn (s.gr k rb))) with
  | true => simp only [Bool.not_true, Bool.false_eq_true, if_false, if_true, run_wG]
  | false => simp only [Bool.not_false, Bool.false_eq_true, if_false, if_true, run_bind, run_raise]

theorem run_checkedBody_pair (hd : rd.val % 2 = 0) (ha : ra.val % 2 = 0) (hb : rb.val % 2 = 0) :
    (checkedBody k true rd ra rb op).run s =
    if fitsS 72 (op (sgn (s.gp k ra)) (sgn (s.gp k rb)))
      then .ok () (s.putP k rd (BitVec.ofInt 72 (op (sgn (s.gp k ra)) (sgn (s.gp k rb)))))
      else .error (.exc { cls := 6, code := 1 } false) s := by
  simp only [checkedBody, if_true, run_bind, run_needEven, hd, ha, hb, Nat.zero_ne_one, if_false, run_rP]
  cases fitsS 72 (op (sgn (s.gp k ra)) (sgn (s.gp k rb))) with
  | true => simp only [Bool.not_true, Bool.false_eq_true, if_false, if_true, run_wP]
  | false => simp only [Bool.not_false, Bool.false_eq_true, if_false, if_true, run_bind, run_raise]

/-- R84: the check of the register numbers comes before any read. -/
theorem run_checkedBody_odd (odd : rd.val % 2 = 1 ∨ ra.val % 2 = 1) :
    (checkedBody k true rd ra rb op).run s = .error (.exc { cls := 1, code := 1 } false) s := by
  rw [checkedBody, if_pos rfl]
  by_cases hd : rd.val % 2 = 1
  · exact run_bind_error (by rw [run_needEven, if_pos hd])
  · rw [run_bind_ok (by rw [run_needEven, if_neg hd])]
    exact run_bind_error (by rw [run_needEven, if_pos (odd.resolve_left hd)])

end

end Sys2Proof.Machine
end

section
/-! PROOF. O6: the checked additions, subtractions and negations. -/

namespace Sys2Proof.Machine

section
variable {a : Issue} {i : Instr} {st : State} {s1 : Sys} {rd ra rb : Reg} {op : Int → Int → Int}

theorem instr_checked_word (h : Issued a i 4 st.sys s1) {v : Int}
    (hv : op (sgn (s1.gr a.core ra)) (sgn (s1.gr a.core rb)) = v) :
    instr a i 4 (seq (checkedBody a.core false rd ra rb op)) st =
    if -(2 ^ 35 : Int) ≤ v ∧ v < (2 ^ 35 : Int) then doneBy a 4 .seq st (s1.putR a.core rd (BitVec.ofInt 36 v))
    else trapBy a { cls := 6, code := 1 } st s1 := by
  subst hv
  split
  next fits => exact instr_ok h (by rw [run_seq, run_checkedBody_word, if_pos ((fitsS_iff 36 _).mpr fits)])
  next overflows => exact instr_exc h (by rw [run_seq, run_checkedBody_word, if_neg (mt (fitsS_iff 36 _).mp overflows)])

theorem instr_checked_pair (hd : rd.val % 2 = 0) (ha : ra.val % 2 = 0) (hb : rb.val % 2 = 0)
    (h : Issued a i 4 st.sys s1) {v : Int} (hv : op (sgn (s1.gp a.core ra)) (sgn (s1.gp a.core rb)) = v) :
    instr a i 4 (seq (checkedBody a.core true rd ra rb op)) st =
    if -(2 ^ 71 : Int) ≤ v ∧ v < (2 ^ 71 : Int) then doneBy a 4 .seq st (s1.putP a.core rd (BitVec.ofInt 72 v))
    else trapBy a { cls := 6, code := 1 } st s1 := by
  subst hv
  split
  next fits => exact instr_ok h (by rw [run_seq, run_checkedBody_pair hd ha hb, if_pos ((fitsS_iff 72 _).mpr fits)])
  next overflows => exact instr_exc h (by rw [run_seq, run_checkedBody_pair hd ha hb, if_neg (mt (fitsS_iff 72 _).mp overflows)])

theorem instr_checked_odd (odd : rd.val % 2 = 1 ∨ ra.val % 2 = 1) (h : Issued a i 4 st.sys s1) :
    instr a i 4 (seq (checkedBody a.core true rd ra rb op)) st = trapBy a { cls := 1, code := 1 } st s1 :=
  instr_exc h (by rw [run_seq, run_checkedBody_odd odd])

end

/-- Settles O6: the three instructions run one checked body, with the exact sum, difference or negation. -/
theorem checkedIntegerResults : Obligations.CheckedIntegerResults := by
  unfold Obligations.CheckedIntegerResults
  intro a st s1 rd ra rb
  refine ⟨?word, ?pair, ?odd⟩
  case word =>
    simp only [List.forall_mem_cons]
    exact ⟨fun h => instr_checked_word h rfl, fun h => instr_checked_word h rfl, fun h => instr_checked_word h rfl,
      List.forall_mem_nil _⟩
  case pair =>
    intro A B hd ha hb
    simp only [List.forall_mem_cons]
    exact ⟨fun h => instr_checked_pair hd ha hb h rfl, fun h => instr_checked_pair hd ha hb h rfl,
      fun h => instr_checked_pair hd ha rfl h rfl, List.forall_mem_nil _⟩
  case odd =>
    intro odd
    simp only [List.forall_mem_cons]
    exact ⟨instr_checked_odd odd, instr_checked_odd odd, instr_checked_odd odd, List.forall_mem_nil _⟩

end Sys2Proof.Machine
end
